-- ==== Sys2Proof/Word.lean ====
section
/-! DEFINITION. The widths of the ports and of a symbol code, and the named values the spec computes
with (spec/00_scope.md R8, R9, R11, R12; spec/10_state.md R21, R22, R25). What is computed FROM these
values stands in Machine/Operands.lean and Machine/Flags.lean. -/

namespace Sys2Proof

/-- A command word: 8 bits, bit 0 the least significant (30_encoding.md R48, 00_scope.md R12). -/
abbrev CommandWord := BitVec 8

/-- A response word: 16 bits (30_encoding.md R59). -/
abbrev ResponseWord := BitVec 16

/-- The 2-bit code of a symbol, in a payload or in a response (30_encoding.md R52, R53). -/
abbrev SymbolCode := BitVec 2

/-- A bit of a bit stream; `true` is `1` (00_scope.md R9). -/
abbrev Bit := Bool

/-- A sample of a signal, an exact integer in {-1, 0, +1} (00_scope.md R9). -/
inductive Sample where
  | zero
  | plus
  | minus
deriving DecidableEq, Repr

/-- A polarity: a sample restricted to {+1, -1} (00_scope.md R9). The registers POL and ST hold one. -/
inductive Polarity where
  | plus
  | minus
deriving DecidableEq, Repr

/-- The parity of the pulse-parity counter, the register PP (10_state.md R25). -/
inductive Parity where
  | even
  | odd
deriving DecidableEq, Repr

/-- A substitution pattern, one of exactly two (00_scope.md R11). -/
inductive Pattern where
  | even
  | odd
deriving DecidableEq, Repr

/-- A unit's MODE: three values, the code 11 is never held (10_state.md R21). -/
inductive Mode where
  | idle
  | active
  | error
deriving DecidableEq, Repr

/-- The five units (00_scope.md R1, 30_encoding.md R50). -/
inductive UnitId where
  | amie
  | hdb3e
  | hdb3d
  | dme
  | dmd
deriving DecidableEq, Repr

/-- The three operations of a command (30_encoding.md R51). -/
inductive Operation where
  | start
  | data
  | close
deriving DecidableEq, Repr

end Sys2Proof
end

