-- ==== Sys2Proof/Syntax.lean ====
section
/-! DEFINITION. The commands, one constructor for each row of spec/opcode_table.json, the fields of
the one command format CMD8 (30_encoding.md R48), and the ways a word is `Illegal` (R55). -/

namespace Sys2Proof

/-- A decoded command. The one operand, PAY, is kept as the code the host sent: decoding does not judge
the payload of a DATA (30_encoding.md R49, R55). -/
inductive Instr where
  /-- AMIE.START (41_ami_encoder.md R74) -/
  | amieStart
  /-- AMIE.DATA (R75) -/
  | amieData (pay : SymbolCode)
  /-- AMIE.END (R76) -/
  | amieEnd
  /-- HDB3E.START (42_hdb3_encoder.md R87) -/
  | hdb3eStart
  /-- HDB3E.DATA (R88) -/
  | hdb3eData (pay : SymbolCode)
  /-- HDB3E.END (R89) -/
  | hdb3eEnd
  /-- HDB3D.START (43_hdb3_decoder.md R95) -/
  | hdb3dStart
  /-- HDB3D.DATA (R96) -/
  | hdb3dData (pay : SymbolCode)
  /-- HDB3D.END (R97) -/
  | hdb3dEnd
  /-- DME.START (44_dm_encoder.md R101) -/
  | dmeStart
  /-- DME.DATA (R102) -/
  | dmeData (pay : SymbolCode)
  /-- DME.END (R103) -/
  | dmeEnd
  /-- DMD.START (45_dm_decoder.md R109) -/
  | dmdStart
  /-- DMD.DATA (R110) -/
  | dmdData (pay : SymbolCode)
  /-- DMD.END (R111) -/
  | dmdEnd
deriving DecidableEq, Repr

/-- The four fields of the format CMD8 (30_encoding.md R48). -/
structure Cmd8 where
  unit : BitVec 3
  op : BitVec 2
  rsv : BitVec 1
  pay : SymbolCode
deriving DecidableEq, Repr

/-- Why a word is `Illegal`: the first of the four tests of 30_encoding.md R55 that it fails. The spec
has the one outcome `Illegal`; the names are the model's own (DESIGN CHOICE, log entry 7; safe: no
behaviour depends on which). -/
inductive DecodeError where
  /-- UNIT is 101, 110 or 111. -/
  | reservedUnit
  /-- OP is 11. -/
  | reservedOperation
  /-- RSV is 1. -/
  | reservedBit
  /-- START or END with PAY other than 00. -/
  | strayPayload
deriving DecidableEq, Repr

/-- The unit a command addresses (30_encoding.md R50). -/
def Instr.unit : Instr → UnitId
  | .amieStart | .amieData _ | .amieEnd => .amie
  | .hdb3eStart | .hdb3eData _ | .hdb3eEnd => .hdb3e
  | .hdb3dStart | .hdb3dData _ | .hdb3dEnd => .hdb3d
  | .dmeStart | .dmeData _ | .dmeEnd => .dme
  | .dmdStart | .dmdData _ | .dmdEnd => .dmd

/-- The operation a command names (30_encoding.md R51). -/
def Instr.operation : Instr → Operation
  | .amieStart | .hdb3eStart | .hdb3dStart | .dmeStart | .dmdStart => .start
  | .amieData _ | .hdb3eData _ | .hdb3dData _ | .dmeData _ | .dmdData _ => .data
  | .amieEnd | .hdb3eEnd | .hdb3dEnd | .dmeEnd | .dmdEnd => .close

/-- The payload of a DATA, 00 for START and END (30_encoding.md R48). -/
def Instr.payload : Instr → SymbolCode
  | .amieData p | .hdb3eData p | .hdb3dData p | .dmeData p | .dmdData p => p
  | .amieStart | .hdb3eStart | .hdb3dStart | .dmeStart | .dmdStart => 0#2
  | .amieEnd | .hdb3eEnd | .hdb3dEnd | .dmeEnd | .dmdEnd => 0#2

/-- The command of unit `u` with operation START. -/
def startOf : UnitId → Instr
  | .amie => .amieStart
  | .hdb3e => .hdb3eStart
  | .hdb3d => .hdb3dStart
  | .dme => .dmeStart
  | .dmd => .dmdStart

/-- The command of unit `u` with operation DATA and payload `pay`. -/
def dataOf (u : UnitId) (pay : SymbolCode) : Instr :=
  match u with
  | .amie => .amieData pay
  | .hdb3e => .hdb3eData pay
  | .hdb3d => .hdb3dData pay
  | .dme => .dmeData pay
  | .dmd => .dmdData pay

/-- The command of unit `u` with operation END. -/
def endOf : UnitId → Instr
  | .amie => .amieEnd
  | .hdb3e => .hdb3eEnd
  | .hdb3d => .hdb3dEnd
  | .dme => .dmeEnd
  | .dmd => .dmdEnd

end Sys2Proof
end

