-- ==== Sys2Proof/WellFormed.lean ====
section
/-! DEFINITION. Which contents of the format CMD8 are commands: the four tests of 30_encoding.md R55, as
checks of the four fields. A term of `Instr` cannot be ill formed (START and END carry no payload, and
every payload of a DATA is encodable, R55), so the checks are stated of the fields, and `Instr.wf` says
that the fields a command is written in pass them. -/

namespace Sys2Proof

/-- UNIT is one of the five units (R50, R55). -/
def Cmd8.unitOk (c : Cmd8) : Bool := c.unit ≤ 4#3

/-- OP is not the reserved operation 11 (R51, R55). -/
def Cmd8.opOk (c : Cmd8) : Bool := c.op ≠ 3#2

/-- RSV is 0 (R48, R55). -/
def Cmd8.rsvOk (c : Cmd8) : Bool := c.rsv = 0#1

/-- START and END carry the payload 00 (R48, R55). -/
def Cmd8.payOk (c : Cmd8) : Bool := c.op = 1#2 || c.pay = 0#2

/-- The fields are those of a command (R55). -/
def Cmd8.wf (c : Cmd8) : Bool := c.unitOk && c.opOk && c.rsvOk && c.payOk

/-- The code of a unit in the field UNIT (R50). -/
def UnitId.code : UnitId → BitVec 3
  | .amie => 0#3
  | .hdb3e => 1#3
  | .hdb3d => 2#3
  | .dme => 3#3
  | .dmd => 4#3

/-- The code of an operation in the field OP (R51). -/
def Operation.code : Operation → BitVec 2
  | .start => 0#2
  | .data => 1#2
  | .close => 2#2

/-- The fields a command is written in (R48, R57). -/
def Instr.fields (i : Instr) : Cmd8 :=
  { unit := i.unit.code, op := i.operation.code, rsv := 0#1, pay := i.payload }

/-- A command is well formed when its fields pass the checks of R55. -/
def Instr.wf (i : Instr) : Bool := i.fields.wf

end Sys2Proof
end

