-- ==== Sys2Proof/Decode.lean ====
section
/-! DEFINITION. Decoding a command word (30_encoding.md R55), total on all 256 words, and encoding a
command (R57). A command is one 8-bit word; there is no length logic (R48). -/

namespace Sys2Proof

/-- The fields of a word: UNIT 7:5, OP 4:3, RSV 2, PAY 1:0 (30_encoding.md R48). -/
def fieldsOf (w : CommandWord) : Cmd8 :=
  { unit := w.extractLsb' 5 3, op := w.extractLsb' 3 2, rsv := w.extractLsb' 2 1,
    pay := w.extractLsb' 0 2 }

/-- The unit of a UNIT code, none for the reserved codes 101, 110, 111 (30_encoding.md R50). -/
def unitOfCode (u : BitVec 3) : Option UnitId :=
  if u = 0#3 then some .amie
  else if u = 1#3 then some .hdb3e
  else if u = 2#3 then some .hdb3d
  else if u = 3#3 then some .dme
  else if u = 4#3 then some .dmd
  else none

/-- The operation of an OP code, none for the reserved code 11 (30_encoding.md R51). -/
def operationOfCode (o : BitVec 2) : Option Operation :=
  if o = 0#2 then some .start
  else if o = 1#2 then some .data
  else if o = 2#2 then some .close
  else none

/-- The command of a unit, an operation and a payload; the payload matters for DATA only. -/
def commandOf (u : UnitId) (op : Operation) (pay : SymbolCode) : Instr :=
  match op with
  | .start => startOf u
  | .data => dataOf u pay
  | .close => endOf u

/-- `Decode` on the fields, its four tests in the order of 30_encoding.md R55. -/
def decodeFields (c : Cmd8) : Except DecodeError Instr :=
  match unitOfCode c.unit with
  | none => .error .reservedUnit
  | some u =>
    match operationOfCode c.op with
    | none => .error .reservedOperation
    | some op =>
      if c.rsv = 1#1 then .error .reservedBit
      else if op ≠ .data ∧ c.pay ≠ 0#2 then .error .strayPayload
      else .ok (commandOf u op c.pay)

/-- `Decode` (30_encoding.md R55): the command a word stands for, or why the word is `Illegal`. -/
def decode (w : CommandWord) : Except DecodeError Instr := decodeFields (fieldsOf w)

/-- The word is `Illegal` (30_encoding.md R55). -/
def isIllegal (w : CommandWord) : Bool :=
  match decode w with
  | .ok _ => false
  | .error _ => true

/-- The word of a command: UUU00000 for START, UUU010PP for DATA, UUU10000 for END
(30_encoding.md R57). -/
def encode (i : Instr) : CommandWord :=
  match i with
  | .amieStart => 0x00#8
  | .amieData pay => 0b000010#6 ++ pay
  | .amieEnd => 0x10#8
  | .hdb3eStart => 0x20#8
  | .hdb3eData pay => 0b001010#6 ++ pay
  | .hdb3eEnd => 0x30#8
  | .hdb3dStart => 0x40#8
  | .hdb3dData pay => 0b010010#6 ++ pay
  | .hdb3dEnd => 0x50#8
  | .dmeStart => 0x60#8
  | .dmeData pay => 0b011010#6 ++ pay
  | .dmeEnd => 0x70#8
  | .dmdStart => 0x80#8
  | .dmdData pay => 0b100010#6 ++ pay
  | .dmdEnd => 0x90#8

/-- The command word in a number of `nbits` bits as spec/opcode_table.json numbers them: every command
is one 8-bit word, and a bit above `nbits` is 0 (30_encoding.md R48). -/
def tableWord (nbits w : Nat) : CommandWord := BitVec.ofNat 8 (w % 2 ^ nbits)

/-- The command the decoder reads from an instruction of spec/opcode_table.json whose bits are `w`. -/
def decodeTableWord (nbits w : Nat) : Option Instr :=
  match decode (tableWord nbits w) with
  | .ok i => some i
  | .error _ => none

end Sys2Proof
end

