-- ==== Sys2Proof/Config.lean ====
section
/-! DEFINITION. The parameters of the hardware, each with the one value 00_scope.md R8 gives it. The
spec leaves no parameter open, so nothing here is a free value. -/

namespace Sys2Proof

/-- Consecutive zero bits that make HDB3E substitute (R8, 42_hdb3_encoder.md R78). -/
@[simp] abbrev Config.substitutionThreshold : Nat := 4

/-- Samples the HDB3E delay line DL holds between commands (R8, 10_state.md R26). -/
@[simp] abbrev Config.delayDepth : Nat := 3

/-- Samples of the HDB3D window: three held and the arriving one (R8, 43_hdb3_decoder.md R92). -/
@[simp] abbrev Config.windowLength : Nat := 4

/-- The polarity of the first mark of a pass of AMIE or HDB3E (R8, 41_ami_encoder.md R72). -/
@[simp] abbrev Config.initialPolarity : Polarity := .plus

/-- The state of the Differential Manchester units when a pass begins (R8, 44_dm_encoder.md R99). -/
@[simp] abbrev Config.initialDmState : Polarity := .plus

end Sys2Proof
end

