-- ==== Sys2Proof/Machine/State.lean ====
section
/-! DEFINITION. The block's state, a tuple of five unit states (10_state.md R16 to R34), the two lists
that stand for the host at the ports, and the reset state. A register is held as the value it stands for
(DEDUCED, log entry 9; safe), its length registers DLN and BUFN as lengths of lists (log entry 6). -/

namespace Sys2Proof.Machine

/-- The AMI encoder's registers (10_state.md R21, R22). -/
structure Amie where
  /-- MODE (R21) -/
  mode : Mode
  /-- POL, the polarity of the next mark (R22) -/
  pol : Polarity
deriving DecidableEq, Repr

/-- The HDB3 encoder's registers (10_state.md R21, R23 to R26). -/
structure Hdb3e where
  /-- MODE (R21) -/
  mode : Mode
  /-- POL, the AMI polarity of the next mark of the pass (R23) -/
  pol : Polarity
  /-- ZRUN, the zero-run counter (R24) -/
  zrun : BitVec 2
  /-- PP, the parity of the pulse-parity counter (R25) -/
  pp : Parity
  /-- DL, the delay line, oldest first; DLN is its length (R26) -/
  dl : List Sample
deriving DecidableEq, Repr

/-- The HDB3 decoder's registers (10_state.md R21, R27). -/
structure Hdb3d where
  /-- MODE (R21) -/
  mode : Mode
  /-- BUF, the samples from the read cursor on; BUFN is its length (R27) -/
  buf : List Sample
deriving DecidableEq, Repr

/-- The Differential Manchester encoder's registers (10_state.md R21, R28). -/
structure Dme where
  /-- MODE (R21) -/
  mode : Mode
  /-- ST (R28) -/
  st : Polarity
deriving DecidableEq, Repr

/-- The Differential Manchester decoder's registers (10_state.md R21, R29, R30). -/
structure Dmd where
  /-- MODE (R21) -/
  mode : Mode
  /-- ST (R29) -/
  st : Polarity
  /-- HALF with HALFV: the first sample of the current pair, if it is present (R30) -/
  half : Option Sample
deriving DecidableEq, Repr

/-- The block's state B, the tuple of the five unit states and nothing else (10_state.md R16). -/
structure Block where
  amie : Amie
  hdb3e : Hdb3e
  hdb3d : Hdb3d
  dme : Dme
  dmd : Dmd
deriving DecidableEq, Repr

/-- What the host can do to the block: present a command word (20_memory.md R35), or assert the
hardware reset input, which is separate from the command port (70_reset_and_hazards.md R127). -/
inductive HostInput where
  | command (word : CommandWord)
  | reset
deriving DecidableEq, Repr

/-- The machine: the block, and the host's side of its ports. `input` and `responses` are the model's
own fields (DESIGN CHOICE, log entries 1 and 2): the ports hold no value between commands and the host
keeps the command stream (10_state.md R16). -/
structure State where
  /-- The block's registers (R16). -/
  block : Block
  /-- What the host presents from now on, the next first (log entry 1). -/
  input : List HostInput
  /-- The responses the block has returned, oldest first (log entry 2). -/
  responses : List ResponseWord
deriving DecidableEq, Repr

/-- The faults that stop the machine: none. Every error is a status in a response, and every command
on every state has an outcome (60_exceptions.md R113, R120; 40_dispatch.md R62), so this closed
inductive has no constructor and nobody raises one (DEDUCED, log entry 12). Safe: nothing stops. -/
inductive Fault where
deriving DecidableEq, Repr

/-- The reasons to refuse an instruction. -/
inductive Refusal where
  /-- An arm of `exec` whose instruction has no meaning yet would raise it, under the instruction's
  mnemonic. Every instruction of this hardware has its meaning, so nobody raises it. Safe. -/
  | notModelled (mnemonic : String)
deriving DecidableEq, Repr

/-- AMIE after reset (10_state.md R22, R34). -/
def Amie.reset : Amie := { mode := .idle, pol := Config.initialPolarity }

/-- HDB3E after reset (10_state.md R23 to R26, R34). -/
def Hdb3e.reset : Hdb3e :=
  { mode := .idle, pol := Config.initialPolarity, zrun := 0#2, pp := .even, dl := [] }

/-- HDB3D after reset (10_state.md R27, R34). -/
def Hdb3d.reset : Hdb3d := { mode := .idle, buf := [] }

/-- DME after reset (10_state.md R28, R34). -/
def Dme.reset : Dme := { mode := .idle, st := Config.initialDmState }

/-- DMD after reset (10_state.md R29, R30, R34). -/
def Dmd.reset : Dmd := { mode := .idle, st := Config.initialDmState, half := none }

/-- The block after reset (10_state.md R34). -/
def Block.reset : Block :=
  { amie := .reset, hdb3e := .reset, hdb3d := .reset, dme := .reset, dmd := .reset }

/-- The machine right after reset: the block as 10_state.md R34 gives it, the host having presented
nothing yet and the block having answered nothing yet (log entries 1, 2). -/
def State.reset : State := { block := .reset, input := [], responses := [] }

end Sys2Proof.Machine
end

