-- ==== Sys2Proof/Machine/Operands.lean ====
section
/-! DEFINITION. The one operand form: a 2-bit payload read as a bit or as a sample (30_encoding.md R49,
R52 to R56), the codes of the registers (10_state.md R21, R22, R25), and the arithmetic of samples:
negation of a polarity (00_scope.md R9, R13). -/

namespace Sys2Proof

/-- `-p`: negation swaps +1 and -1 (00_scope.md R13). -/
def Polarity.neg : Polarity → Polarity
  | .plus => .minus
  | .minus => .plus

/-- A polarity is a sample (00_scope.md R9). -/
def Polarity.sample : Polarity → Sample
  | .plus => .plus
  | .minus => .minus

/-- The register encoding of POL and ST: 0 is +1, 1 is -1 (10_state.md R22, R28, R29). -/
def Polarity.code : Polarity → BitVec 1
  | .plus => 0#1
  | .minus => 1#1

/-- `PP xor 1` (10_state.md R25). -/
def Parity.flip : Parity → Parity
  | .even => .odd
  | .odd => .even

/-- The register encoding of PP: 0 is even, 1 is odd (10_state.md R25). -/
def Parity.code : Parity → BitVec 1
  | .even => 0#1
  | .odd => 1#1

/-- The register encoding of MODE (10_state.md R21). -/
def Mode.code : Mode → BitVec 2
  | .idle => 0#2
  | .active => 1#2
  | .error => 2#2

/-- The exact integer a sample is (00_scope.md R9). -/
def Sample.value : Sample → Int
  | .zero => 0
  | .plus => 1
  | .minus => -1

/-- The sample code, the 2-bit two's complement of the sample (30_encoding.md R53). -/
def Sample.code : Sample → SymbolCode
  | .zero => 0#2
  | .plus => 1#2
  | .minus => 3#2

/-- The bit code: 00 is `0` and 01 is `1` (30_encoding.md R52). -/
def bitCode (b : Bit) : SymbolCode := if b then 1#2 else 0#2

/-- The four samples of a pattern (00_scope.md R11). -/
def Pattern.samples : Pattern → List Sample
  | .even => [.plus, .zero, .zero, .minus]
  | .odd => [.zero, .zero, .zero, .plus]

/-- The bit a payload carries to AMIE, HDB3E or DME; 10 and 11 are not bits (30_encoding.md R52, R56). -/
def bitSymbol (pay : SymbolCode) : Option Bit :=
  if pay = 0#2 then some false
  else if pay = 1#2 then some true
  else none

/-- The sample a payload carries to HDB3D; 10 is not a sample (30_encoding.md R53, R56). -/
def sampleSymbol (pay : SymbolCode) : Option Sample :=
  if pay = 0#2 then some .zero
  else if pay = 1#2 then some .plus
  else if pay = 3#2 then some .minus
  else none

/-- The sample a payload carries to DMD, which takes -1 and +1 only (30_encoding.md R54, R56). -/
def dmSymbol (pay : SymbolCode) : Option Sample :=
  if pay = 1#2 then some .plus
  else if pay = 3#2 then some .minus
  else none

/-- `ValidPayload(U, PAY)` (30_encoding.md R56). -/
def validPayload (u : UnitId) (pay : SymbolCode) : Bool :=
  match u with
  | .amie | .hdb3e | .dme => (bitSymbol pay).isSome
  | .hdb3d => (sampleSymbol pay).isSome
  | .dmd => (dmSymbol pay).isSome

end Sys2Proof
end

