-- ==== Sys2Proof/Machine/Flags.lean ====
section
/-! DEFINITION. The block has no condition codes or flags (10_state.md R20). In their place stands the
STATUS of each response (60_exceptions.md R113): this file has the statuses, the response word
(30_encoding.md R59, 40_dispatch.md R66), and how a host reads one. -/

namespace Sys2Proof

/-- The statuses; the codes 6 and 7 are never returned (60_exceptions.md R113). -/
inductive Status where
  | ok
  | invalidSymbol
  | malformedSignal
  | sequenceError
  | illegalCommand
  | aborted
deriving DecidableEq, Repr

/-- The STATUS code (60_exceptions.md R113). -/
def Status.code : Status → BitVec 3
  | .ok => 0#3
  | .invalidSymbol => 1#3
  | .malformedSignal => 2#3
  | .sequenceError => 3#3
  | .illegalCommand => 4#3
  | .aborted => 5#3

/-- What a command has built when it ends: OUT, the codes of the symbols it emitted in order, and the
substitution record (00_scope.md R14). -/
structure Emission where
  out : List SymbolCode
  record : Option Pattern
deriving DecidableEq, Repr

/-- OUT = [] and no record (00_scope.md R14). -/
def Emission.none : Emission := { out := [], record := .none }

/-- Only emitted symbols, no record. -/
def Emission.symbols (out : List SymbolCode) : Emission := { out := out, record := .none }

/-- REC_V: the response carries a record (30_encoding.md R59). -/
def recordValid : Option Pattern → BitVec 1
  | .none => 0#1
  | .some _ => 1#1

/-- REC_P: 0 for EVEN, 1 for ODD, 0 without a record (30_encoding.md R59). -/
def recordPattern : Option Pattern → BitVec 1
  | .none => 0#1
  | .some .even => 0#1
  | .some .odd => 1#1

/-- SYMk: the k-th output symbol, 00 where there is none (30_encoding.md R59, 40_dispatch.md R66). -/
def symbolSlot (out : List SymbolCode) (k : Nat) : SymbolCode := out.getD k 0#2

/-- Response assembly (30_encoding.md R59, 40_dispatch.md R66): from the top, bits 15:14 zero, SYM2, SYM1,
SYM0, bit 7 zero, REC_P, REC_V, COUNT, STATUS. No command emits more than three symbols (R66; log
entry 6 for states no run reaches). -/
def responseWord (status : Status) (e : Emission) : ResponseWord :=
  0#2 ++ symbolSlot e.out 2 ++ symbolSlot e.out 1 ++ symbolSlot e.out 0 ++ 0#1
    ++ recordPattern e.record ++ recordValid e.record ++ BitVec.ofNat 2 e.out.length ++ status.code

/-- STATUS of a response word (30_encoding.md R59). -/
def statusOf (r : ResponseWord) : BitVec 3 := r.extractLsb' 0 3

/-- COUNT of a response word (30_encoding.md R59). -/
def countOf (r : ResponseWord) : Nat := (r.extractLsb' 3 2).toNat

/-- The output symbols of a response word, in time order: SYM0, SYM1, SYM2 as COUNT says
(30_encoding.md R59, 20_memory.md R39). -/
def symbolsOf (r : ResponseWord) : List SymbolCode :=
  [r.extractLsb' 8 2, r.extractLsb' 10 2, r.extractLsb' 12 2].take (countOf r)

/-- The substitution record of a response word (30_encoding.md R59). -/
def recordOf (r : ResponseWord) : Option Pattern :=
  if r.extractLsb' 5 1 = 0#1 then none
  else if r.extractLsb' 6 1 = 0#1 then some .even
  else some .odd

end Sys2Proof
end

