-- ==== Sys2Proof/Machine/Ops.lean ====
section
/-! DEFINITION. The operations every command shares: the MODE register by unit, returning a response,
the four error handlers (60_exceptions.md R114 to R117, the block's whole error entry, R120), the
common parts of START, DATA and END (40_dispatch.md R62 to R65), hardware reset (70_reset_and_hazards.md
R127), and taking the host's next input (20_memory.md R42). -/

namespace Sys2Proof.Machine

/-- Unit `u`'s MODE register (10_state.md R21). -/
def Block.mode (u : UnitId) (b : Block) : Mode :=
  match u with
  | .amie => b.amie.mode
  | .hdb3e => b.hdb3e.mode
  | .hdb3d => b.hdb3d.mode
  | .dme => b.dme.mode
  | .dmd => b.dmd.mode

/-- `U.MODE <- m` (10_state.md R21). -/
def Block.setMode (u : UnitId) (m : Mode) (b : Block) : Block :=
  match u with
  | .amie => { b with amie := { b.amie with mode := m } }
  | .hdb3e => { b with hdb3e := { b.hdb3e with mode := m } }
  | .hdb3d => { b with hdb3d := { b.hdb3d with mode := m } }
  | .dme => { b with dme := { b.dme with mode := m } }
  | .dmd => { b with dmd := { b.dmd with mode := m } }

/-- End a command with block `b`: the response word of `status` and `e` is returned (40_dispatch.md R66;
00_scope.md R14 `return`). -/
def respond (b : Block) (status : Status) (e : Emission) (s : State) : State :=
  { s with block := b, responses := s.responses ++ [responseWord status e] }

/-- `IllegalCommand()`: no register of any unit changes (60_exceptions.md R114). -/
def illegalCommand (s : State) : State := respond s.block .illegalCommand .none s

/-- `SequenceError()`: no state change (60_exceptions.md R115). -/
def sequenceError (s : State) : State := respond s.block .sequenceError .none s

/-- `InvalidSymbol(U)`: MODE becomes ERROR, no datapath register changes (60_exceptions.md R116). -/
def invalidSymbol (u : UnitId) (s : State) : State :=
  respond (s.block.setMode u .error) .invalidSymbol .none s

/-- `Aborted(U, OP)`: END closes the aborted pass, DATA changes nothing (60_exceptions.md R117). -/
def aborted (u : UnitId) (op : Operation) (s : State) : State :=
  respond (if op = .close then s.block.setMode u .idle else s.block) .aborted .none s

/-- START, common part (40_dispatch.md R62, R63): accepted in every mode; the unit's START rule `fresh`,
then MODE becomes ACTIVE, status OK, no output. -/
def startCommand (u : UnitId) (fresh : Block → Block) (s : State) : State :=
  respond ((fresh s.block).setMode u .active) .ok .none s

/-- DATA, common part (40_dispatch.md R62, R64): the mode gate, the alphabet check of the payload (`symbol`
is none where the payload is invalid), then the unit's DATA rule. -/
def dataCommand {α : Type} (u : UnitId) (symbol : Option α) (rule : α → Block → Block × Emission)
    (s : State) : State :=
  match s.block.mode u with
  | .idle => sequenceError s
  | .error => aborted u .data s
  | .active =>
    match symbol with
    | none => invalidSymbol u s
    | some x => respond (rule x s.block).1 .ok (rule x s.block).2 s

/-- END, common part (40_dispatch.md R62, R65): the mode gate, MODE becomes IDLE, then the unit's END rule,
which gives the status. -/
def endCommand (u : UnitId) (rule : Block → Block × Status × Emission) (s : State) : State :=
  match s.block.mode u with
  | .idle => sequenceError s
  | .error => aborted u .close s
  | .active =>
    let done := rule (s.block.setMode u .idle)
    respond done.1 done.2.1 done.2.2 s

/-- Hardware reset (70_reset_and_hazards.md R127): every register takes its reset value; no response. -/
def hardwareReset (s : State) : State := { s with block := .reset }

/-- The host's next input and the state in which it has been taken off the port; none while the host
presents nothing (20_memory.md R42; log entries 1 and 3). -/
def takeInput (s : State) : Option (HostInput × State) :=
  match s.input with
  | [] => none
  | x :: rest => some (x, { s with input := rest })

end Sys2Proof.Machine
end

