-- ==== Sys2Proof/Machine/Ami.lean ====
section
/-! DEFINITION. The AMI encoder's commands (41_ami_encoder.md R74 to R76). -/

namespace Sys2Proof.Machine

/-- `AMIE.START()` (R74). -/
def Amie.fresh (u : Amie) : Amie := { u with pol := Config.initialPolarity }

/-- `AMIE.DATA(b)` (R75). -/
def Amie.data (b : Bit) (u : Amie) : Amie × Emission :=
  if b then ({ u with pol := u.pol.neg }, .symbols [u.pol.sample.code])
  else (u, .symbols [Sample.zero.code])

/-- AMIE.START (R74). -/
def execAmieStart (s : State) : Host.Outcome State Fault Refusal :=
  .next (startCommand .amie (fun b => { b with amie := b.amie.fresh }) s)

/-- AMIE.DATA (R75). -/
def execAmieData (pay : SymbolCode) (s : State) : Host.Outcome State Fault Refusal :=
  .next (dataCommand .amie (bitSymbol pay)
    (fun x b => ({ b with amie := (b.amie.data x).1 }, (b.amie.data x).2)) s)

/-- AMIE.END: nothing is buffered (R76). -/
def execAmieEnd (s : State) : Host.Outcome State Fault Refusal :=
  .next (endCommand .amie (fun b => (b, .ok, .none)) s)

end Sys2Proof.Machine
end

