-- ==== Sys2Proof/Machine/DmDecoder.lean ====
section
/-! DEFINITION. The Differential Manchester decoder's commands (45_dm_decoder.md R109 to R111). -/

namespace Sys2Proof.Machine

/-- `DMD.START()` (R109). -/
def Dmd.fresh (u : Dmd) : Dmd := { u with st := Config.initialDmState, half := none }

/-- `DMD.DATA(x)`: the first sample of a pair is held; on the second, which is not examined, the held one
is compared with ST (R107, R110). -/
def Dmd.data (x : Sample) (u : Dmd) : Dmd × Emission :=
  match u.half with
  | none => ({ u with half := some x }, .none)
  | some first =>
    if first = u.st.sample then ({ u with half := none }, .symbols [bitCode false])
    else ({ u with half := none, st := u.st.neg }, .symbols [bitCode true])

/-- `DMD.END()`: an unpaired sample is dropped and flagged (R111, 60_exceptions.md R118). -/
def Dmd.finish (u : Dmd) : Dmd × Status :=
  match u.half with
  | none => (u, .ok)
  | some _ => ({ u with half := none }, .malformedSignal)

/-- DMD.START (R109). -/
def execDmdStart (s : State) : Host.Outcome State Fault Refusal :=
  .next (startCommand .dmd (fun b => { b with dmd := b.dmd.fresh }) s)

/-- DMD.DATA (R110). -/
def execDmdData (pay : SymbolCode) (s : State) : Host.Outcome State Fault Refusal :=
  .next (dataCommand .dmd (dmSymbol pay)
    (fun x b => ({ b with dmd := (b.dmd.data x).1 }, (b.dmd.data x).2)) s)

/-- DMD.END (R111). -/
def execDmdEnd (s : State) : Host.Outcome State Fault Refusal :=
  .next (endCommand .dmd (fun b => ({ b with dmd := b.dmd.finish.1 }, b.dmd.finish.2, .none)) s)

end Sys2Proof.Machine
end

