-- ==== Sys2Proof/Machine/DmEncoder.lean ====
section
/-! DEFINITION. The Differential Manchester encoder's commands (44_dm_encoder.md R101 to R103). -/

namespace Sys2Proof.Machine

/-- `DME.START()` (R101). -/
def Dme.fresh (u : Dme) : Dme := { u with st := Config.initialDmState }

/-- `DME.DATA(b)`: two samples, first half first (R102). -/
def Dme.data (b : Bit) (u : Dme) : Dme × Emission :=
  if b then ({ u with st := u.st.neg }, .symbols [u.st.neg.sample.code, u.st.sample.code])
  else (u, .symbols [u.st.sample.code, u.st.neg.sample.code])

/-- DME.START (R101). -/
def execDmeStart (s : State) : Host.Outcome State Fault Refusal :=
  .next (startCommand .dme (fun b => { b with dme := b.dme.fresh }) s)

/-- DME.DATA (R102). -/
def execDmeData (pay : SymbolCode) (s : State) : Host.Outcome State Fault Refusal :=
  .next (dataCommand .dme (bitSymbol pay)
    (fun x b => ({ b with dme := (b.dme.data x).1 }, (b.dme.data x).2)) s)

/-- DME.END: nothing is buffered (R103). -/
def execDmeEnd (s : State) : Host.Outcome State Fault Refusal :=
  .next (endCommand .dme (fun b => (b, .ok, .none)) s)

end Sys2Proof.Machine
end

