-- ==== Sys2Proof/Machine/Hdb3Decoder.lean ====
section
/-! DEFINITION. The HDB3 decoder's commands (43_hdb3_decoder.md R95 to R97). -/

namespace Sys2Proof.Machine

/-- `HDB3D.START()` (R95). -/
def Hdb3d.fresh (u : Hdb3d) : Hdb3d := { u with buf := [] }

/-- The bit a sample decodes to on its own: non-zero is `1` (R91, R97). -/
def sampleBit (x : Sample) : Bit := x ≠ .zero

/-- The decision on a full window (R96): three zeros make a window, which is consumed whole for one `0`;
otherwise the sample under the cursor is decoded on its own. -/
def Hdb3d.decide (u : Hdb3d) (window : List Sample) : Hdb3d × Emission :=
  match window with
  | .zero :: .zero :: .zero :: _ => ({ u with buf := [] }, .symbols [bitCode false])
  | x :: rest => ({ u with buf := rest }, .symbols [bitCode (sampleBit x)])
  | [] => (u, .none)

/-- `HDB3D.DATA(x)` (R96). -/
def Hdb3d.data (x : Sample) (u : Hdb3d) : Hdb3d × Emission :=
  let line := u.buf ++ [x]
  if line.length = Config.windowLength then u.decide line
  else ({ u with buf := line }, .none)

/-- `HDB3D.END()`: every sample still held is decoded on its own (R97). -/
def Hdb3d.flush (u : Hdb3d) : Hdb3d × Emission :=
  ({ u with buf := [] }, .symbols (u.buf.map fun x => bitCode (sampleBit x)))

/-- HDB3D.START (R95). -/
def execHdb3dStart (s : State) : Host.Outcome State Fault Refusal :=
  .next (startCommand .hdb3d (fun b => { b with hdb3d := b.hdb3d.fresh }) s)

/-- HDB3D.DATA (R96). -/
def execHdb3dData (pay : SymbolCode) (s : State) : Host.Outcome State Fault Refusal :=
  .next (dataCommand .hdb3d (sampleSymbol pay)
    (fun x b => ({ b with hdb3d := (b.hdb3d.data x).1 }, (b.hdb3d.data x).2)) s)

/-- HDB3D.END (R97). -/
def execHdb3dEnd (s : State) : Host.Outcome State Fault Refusal :=
  .next (endCommand .hdb3d (fun b => ({ b with hdb3d := b.hdb3d.flush.1 }, .ok, b.hdb3d.flush.2)) s)

end Sys2Proof.Machine
end

