-- ==== Sys2Proof/Machine/Hdb3Encoder.lean ====
section
/-! DEFINITION. The HDB3 encoder's commands (42_hdb3_encoder.md R87 to R89). -/

namespace Sys2Proof.Machine

/-- `HDB3E.START()` (R87). -/
def Hdb3e.fresh (u : Hdb3e) : Hdb3e :=
  { u with pol := Config.initialPolarity, zrun := 0#2, pp := .even, dl := [] }

/-- The end of `HDB3E.DATA` (R88): the new sample joins the delay line, and the oldest leaves it once the
line would hold more than its depth. -/
def Hdb3e.shift (v : Sample) (u : Hdb3e) (record : Option Pattern) : Hdb3e × Emission :=
  let line := u.dl ++ [v]
  if line.length = Config.delayDepth + 1 then
    ({ u with dl := line.tail }, { out := (line.take 1).map Sample.code, record := record })
  else ({ u with dl := line }, { out := [], record := record })

/-- A substitution at the fourth consecutive zero (R88, R79): EVEN rewrites the oldest sample of the delay
line to +1 and adds -1; ODD adds +1. The run restarts and the substitution counts toward the parity. -/
def Hdb3e.substitute (u : Hdb3e) : Hdb3e × Emission :=
  match u.pp with
  | .even =>
    Hdb3e.shift .minus { u with dl := u.dl.set 0 .plus, zrun := 0#2, pp := u.pp.flip } (some .even)
  | .odd => Hdb3e.shift .plus { u with zrun := 0#2, pp := u.pp.flip } (some .odd)

/-- `HDB3E.DATA(b)` (R88). -/
def Hdb3e.data (b : Bit) (u : Hdb3e) : Hdb3e × Emission :=
  if b then
    Hdb3e.shift u.pol.sample { u with pol := u.pol.neg, pp := u.pp.flip, zrun := 0#2 } none
  else if u.zrun.toNat + 1 < Config.substitutionThreshold then
    Hdb3e.shift .zero { u with zrun := u.zrun + 1#2 } none
  else u.substitute

/-- `HDB3E.END()`: the delay line is emitted, oldest first, and emptied (R89). -/
def Hdb3e.flush (u : Hdb3e) : Hdb3e × Emission :=
  ({ u with dl := [] }, .symbols (u.dl.map Sample.code))

/-- HDB3E.START (R87). -/
def execHdb3eStart (s : State) : Host.Outcome State Fault Refusal :=
  .next (startCommand .hdb3e (fun b => { b with hdb3e := b.hdb3e.fresh }) s)

/-- HDB3E.DATA (R88). -/
def execHdb3eData (pay : SymbolCode) (s : State) : Host.Outcome State Fault Refusal :=
  .next (dataCommand .hdb3e (bitSymbol pay)
    (fun x b => ({ b with hdb3e := (b.hdb3e.data x).1 }, (b.hdb3e.data x).2)) s)

/-- HDB3E.END (R89). -/
def execHdb3eEnd (s : State) : Host.Outcome State Fault Refusal :=
  .next (endCommand .hdb3e (fun b => ({ b with hdb3e := b.hdb3e.flush.1 }, .ok, b.hdb3e.flush.2)) s)

end Sys2Proof.Machine
end

