-- ==== Sys2Proof/Machine/Dispatch.lean ====
section
/-! DEFINITION. One arm per command: the meaning it has (30_encoding.md R57). -/

namespace Sys2Proof.Machine

def exec (i : Instr) (s : State) : Host.Outcome State Fault Refusal :=
  match i with
  | .amieStart => Sys2Proof.Machine.execAmieStart s
  | .amieData pay => Sys2Proof.Machine.execAmieData pay s
  | .amieEnd => Sys2Proof.Machine.execAmieEnd s
  | .hdb3eStart => Sys2Proof.Machine.execHdb3eStart s
  | .hdb3eData pay => Sys2Proof.Machine.execHdb3eData pay s
  | .hdb3eEnd => Sys2Proof.Machine.execHdb3eEnd s
  | .hdb3dStart => Sys2Proof.Machine.execHdb3dStart s
  | .hdb3dData pay => Sys2Proof.Machine.execHdb3dData pay s
  | .hdb3dEnd => Sys2Proof.Machine.execHdb3dEnd s
  | .dmeStart => Sys2Proof.Machine.execDmeStart s
  | .dmeData pay => Sys2Proof.Machine.execDmeData pay s
  | .dmeEnd => Sys2Proof.Machine.execDmeEnd s
  | .dmdStart => Sys2Proof.Machine.execDmdStart s
  | .dmdData pay => Sys2Proof.Machine.execDmdData pay s
  | .dmdEnd => Sys2Proof.Machine.execDmdEnd s

end Sys2Proof.Machine
end

