-- ==== Sys2Proof/Machine/Step.lean ====
section
/-! DEFINITION. One step of the machine (40_dispatch.md R62): the host's next input is taken; a command
word is decoded and its meaning runs, an `Illegal` word is answered with ILLEGAL_COMMAND
(60_exceptions.md R114), and the reset input resets the block (70_reset_and_hazards.md R127). -/

namespace Sys2Proof.Machine

/-- One step. While the host presents nothing the block does nothing (20_memory.md R41; log entry 3). -/
def step (s : State) : Host.Outcome State Fault Refusal :=
  match takeInput s with
  | none => .next s
  | some (.reset, taken) => .next (hardwareReset taken)
  | some (.command w, taken) =>
    match decode w with
    | .ok i => exec i taken
    | .error _ => .next (illegalCommand taken)

/-- The host presents the word `w` next (log entry 5): this is where `step` takes its next command from. -/
def State.withFetchWord (s : State) (nbits w : Nat) : State :=
  { s with input := .command (tableWord nbits w) :: s.input }

end Sys2Proof.Machine
end

