-- ==== Sys2Proof/Machine/Assembler.lean ====
section
/-! DEFINITION. The assembler spelling of commands and the two pseudo-instructions (30_encoding.md R60,
R61). It is notation for test programs, not part of the hardware (92_eei_decisions.md D31): no step calls
it. What the rules leave open of a line's text is log entry 8. -/

namespace Sys2Proof

/-- What follows the dot of a mnemonic: an operation, or the pseudo-instructions FEED and PASS. -/
inductive Directive where
  | operation (op : Operation)
  | feed
  | pass
deriving DecidableEq, Repr

/-- `<UNIT>` (R60). -/
def unitName : UnitId → List Char
  | .amie => "AMIE".toList
  | .hdb3e => "HDB3E".toList
  | .hdb3d => "HDB3D".toList
  | .dme => "DME".toList
  | .dmd => "DMD".toList

/-- `<OP>`, or the name of a pseudo-instruction (R60, R61). -/
def directiveName : Directive → List Char
  | .operation .start => "START".toList
  | .operation .data => "DATA".toList
  | .operation .close => "END".toList
  | .feed => "FEED".toList
  | .pass => "PASS".toList

/-- `<UNIT>.<OP>` (R60). -/
def mnemonicText (u : UnitId) (d : Directive) : List Char := unitName u ++ '.' :: directiveName d

/-- Every mnemonic with what it names. -/
def mnemonicTable : List (List Char × UnitId × Directive) :=
  [UnitId.amie, .hdb3e, .hdb3d, .dme, .dmd].flatMap fun u =>
    [Directive.operation .start, .operation .data, .operation .close, .feed, .pass].map fun d =>
      (mnemonicText u d, u, d)

/-- The unit and operation a mnemonic names. -/
def readMnemonic (t : List Char) : Option (UnitId × Directive) :=
  (mnemonicTable.find? fun row => row.1 = t).map fun row => row.2

/-- The payload an operand of DATA spells, none outside the unit's alphabet (R60). -/
def operandCode (u : UnitId) (t : List Char) : Option SymbolCode :=
  match u with
  | .amie | .hdb3e | .dme =>
    if t = ['0'] then some 0#2 else if t = ['1'] then some 1#2 else none
  | .hdb3d =>
    if t = ['0'] then some 0#2
    else if t = ['+', '1'] ∨ t = ['1'] then some 1#2
    else if t = ['-', '1'] then some 3#2
    else none
  | .dmd =>
    if t = ['+', '1'] then some 1#2 else if t = ['-', '1'] then some 3#2 else none

/-- One operand of FEED or PASS: for an encoder it may be a bit string run together (R61). -/
def feedOperand (u : UnitId) (t : List Char) : Option (List SymbolCode) :=
  match u with
  | .amie | .hdb3e | .dme => if t = [] then none else t.mapM fun c => operandCode u [c]
  | .hdb3d | .dmd => (operandCode u t).map fun c => [c]

/-- The DATA words of `<UNIT>.FEED s0 s1 ... sn-1` (R61). -/
def feedWords (u : UnitId) (ts : List (List Char)) : Option (List CommandWord) :=
  (ts.mapM (feedOperand u)).map fun codes => codes.flatten.map fun c => encode (dataOf u c)

/-- The sixteen digits of a literal `0xNN`, each at the place of its value (R60, 00_scope.md R12); written in
capitals, as 30_encoding.md writes its words. -/
def wordDigits : List Char := "0123456789ABCDEF".toList

/-- The value of a digit of `0xNN`: its place among the digits. A digit may be read in small letters too (DESIGN
CHOICE, log entry 8). -/
def hexDigit (c : Char) : Option Nat := wordDigits.idxOf? c.toUpper

/-- The word of `0xNN` (R60, 00_scope.md R12). -/
def wordLiteral (t : List Char) : Option CommandWord :=
  match t with
  | ['0', 'x', h, l] =>
    match hexDigit h, hexDigit l with
    | some a, some b => some (BitVec.ofNat 8 (16 * a + b))
    | _, _ => none
  | _ => none

/-- The command words of a line given as its tokens; none where the assembler refuses it (R60, R61). -/
def assembleTokens (ts : List (List Char)) : Option (List CommandWord) :=
  match ts with
  | [] => some []
  | head :: operands =>
    if head = ".word".toList then
      match operands with
      | [t] => (wordLiteral t).map fun w => [w]
      | _ => none
    else
      match readMnemonic head with
      | none => none
      | some (u, .operation .start) => if operands = [] then some [encode (startOf u)] else none
      | some (u, .operation .close) => if operands = [] then some [encode (endOf u)] else none
      | some (u, .operation .data) =>
        match operands with
        | [t] => (operandCode u t).map fun c => [encode (dataOf u c)]
        | _ => none
      | some (u, .feed) => feedWords u operands
      | some (u, .pass) =>
        (feedWords u operands).map fun ws => encode (startOf u) :: ws ++ [encode (endOf u)]

/-- A line without its comment (R60). -/
def withoutComment (line : List Char) : List Char := line.takeWhile fun c => c ≠ ';'

/-- A line cut at blanks and tabs; `current` is the token being read, its last character first. -/
def cutTokens (current : List Char) : List Char → List (List Char)
  | [] => if current = [] then [] else [current.reverse]
  | c :: rest =>
    if c = ' ' ∨ c = '\t' then
      if current = [] then cutTokens [] rest else current.reverse :: cutTokens [] rest
    else cutTokens (c :: current) rest

/-- The command words of one line (R60). -/
def assembleLine (line : List Char) : Option (List CommandWord) :=
  assembleTokens (cutTokens [] (withoutComment line))

/-- The command words of a program, one command a line (R60). -/
def assemble (lines : List (List Char)) : Option (List CommandWord) :=
  (lines.mapM assembleLine).map List.flatten

/-- The digit written for a number below 16 (R60). -/
def hexChar (n : Nat) : Char := wordDigits.getD n '0'

/-- `.word 0xNN`, which spells any command word (R60). -/
def wordText (w : CommandWord) : List Char :=
  ".word 0x".toList ++ [hexChar (w.toNat / 16), hexChar (w.toNat % 16)]

/-- The spelling of a symbol as an operand of DATA (R60); none for a payload outside the alphabet. -/
def operandText (u : UnitId) (pay : SymbolCode) : Option (List Char) :=
  match u with
  | .amie | .hdb3e | .dme => (bitSymbol pay).map fun b => if b then ['1'] else ['0']
  | .hdb3d => (sampleSymbol pay).map fun x =>
      match x with
      | .zero => ['0']
      | .plus => ['+', '1']
      | .minus => ['-', '1']
  | .dmd => (dmSymbol pay).map fun x =>
      match x with
      | .zero => ['0']
      | .plus => ['+', '1']
      | .minus => ['-', '1']

/-- The assembler spelling of a command (R60): an invalid-symbol DATA can be written only with `.word`. -/
def spelling (i : Instr) : List Char :=
  match i.operation with
  | .start => mnemonicText i.unit (.operation .start)
  | .close => mnemonicText i.unit (.operation .close)
  | .data =>
    match operandText i.unit i.payload with
    | some t => mnemonicText i.unit (.operation .data) ++ ' ' :: t
    | none => wordText (encode i)

end Sys2Proof
end

