-- ==== Sys2Proof/Machine/Reference.lean ====
section
/-! DEFINITION. The five reference functions (00_scope.md R15), each a whole-sequence function written as
the source's algorithm. The commands are the hardware; these are what a clean pass must output
(40_dispatch.md R68). -/

namespace Sys2Proof

/-- The loop of `ami_encode` with the polarity `p` of the next mark (41_ami_encoder.md R72). -/
def amiEncodeFrom (p : Polarity) : List Bit → List Sample
  | [] => []
  | true :: rest => p.sample :: amiEncodeFrom p.neg rest
  | false :: rest => .zero :: amiEncodeFrom p rest

/-- `ami_encode` (41_ami_encoder.md R72). -/
def amiEncode (b : List Bit) : List Sample := amiEncodeFrom Config.initialPolarity b

/-- The scan of `hdb3_encode` (42_hdb3_encoder.md R78): `i` the index of the next bit, `z` the zero-run
counter, `c` the unbounded pulse-parity counter, `s` the samples as overwritten so far, `recs` the
patterns applied so far. -/
def hdb3Scan (i z c : Nat) (s : List Sample) (recs : List Pattern) :
    List Bit → List Sample × List Pattern
  | [] => (s, recs)
  | true :: rest => hdb3Scan (i + 1) 0 (c + 1) s recs rest
  | false :: rest =>
    if z + 1 = Config.substitutionThreshold then
      if c % 2 = 0 then
        hdb3Scan (i + 1) 0 (c + 1) ((s.set (i - 3) .plus).set i .minus) (recs ++ [.even]) rest
      else hdb3Scan (i + 1) 0 (c + 1) (s.set i .plus) (recs ++ [.odd]) rest
    else hdb3Scan (i + 1) (z + 1) c s recs rest

/-- `hdb3_encode`: the signal, and the patterns in encounter order (42_hdb3_encoder.md R78). -/
def hdb3Encode (b : List Bit) : List Sample × List Pattern := hdb3Scan 0 0 0 (amiEncode b) [] b

/-- `hdb3_decode` (43_hdb3_decoder.md R91, R92): the list is the signal from the read cursor on. -/
def hdb3Decode : List Sample → List Bit
  | .zero :: .zero :: .zero :: _ :: rest => false :: hdb3Decode rest
  | .zero :: rest => false :: hdb3Decode rest
  | .plus :: rest => true :: hdb3Decode rest
  | .minus :: rest => true :: hdb3Decode rest
  | [] => []

/-- The loop of `diff_manchester_encode` with `current_state` `st` (44_dm_encoder.md R99). -/
def dmEncodeFrom (st : Polarity) : List Bit → List Sample
  | [] => []
  | false :: rest => st.sample :: st.neg.sample :: dmEncodeFrom st rest
  | true :: rest => st.neg.sample :: st.sample :: dmEncodeFrom st.neg rest

/-- `diff_manchester_encode` (44_dm_encoder.md R99). -/
def dmEncode (b : List Bit) : List Sample := dmEncodeFrom Config.initialDmState b

/-- The loop of `diff_manchester_decode` with `current_state` `st`; a last unpaired sample is ignored
(45_dm_decoder.md R106). -/
def dmDecodeFrom (st : Polarity) : List Sample → List Bit
  | x :: _ :: rest =>
    if x = st.sample then false :: dmDecodeFrom st rest else true :: dmDecodeFrom st.neg rest
  | [_] => []
  | [] => []

/-- `diff_manchester_decode` (45_dm_decoder.md R106). -/
def dmDecode (s : List Sample) : List Bit := dmDecodeFrom Config.initialDmState s

/-- The reference function of unit `u` on the codes of its input symbols, as the codes of its output
symbols (40_dispatch.md R68). A payload outside the unit's alphabet is no symbol (30_encoding.md R56). -/
def referenceOutput (u : UnitId) (x : List SymbolCode) : List SymbolCode :=
  match u with
  | .amie => (amiEncode (x.filterMap bitSymbol)).map Sample.code
  | .hdb3e => (hdb3Encode (x.filterMap bitSymbol)).1.map Sample.code
  | .hdb3d => (hdb3Decode (x.filterMap sampleSymbol)).map bitCode
  | .dme => (dmEncode (x.filterMap bitSymbol)).map Sample.code
  | .dmd => (dmDecode (x.filterMap dmSymbol)).map bitCode

/-- The record list of a clean pass of unit `u` (40_dispatch.md R67, R68): HDB3E alone has records. -/
def referenceRecords (u : UnitId) (x : List SymbolCode) : List Pattern :=
  match u with
  | .hdb3e => (hdb3Encode (x.filterMap bitSymbol)).2
  | .amie | .hdb3d | .dme | .dmd => []

/-- How many zero bits a bit stream ends in (42_hdb3_encoder.md R81). -/
def trailingZeros (b : List Bit) : Nat := (b.reverse.takeWhile fun x => !x).length

end Sys2Proof
end

