-- ==== Sys2Proof/Safety.lean ====
section
/-! DEFINITION. The terms claims about runs use: what the host presents, the exchanges of a run, passes
and clean passes (40_dispatch.md R67), the host's duties (70_reset_and_hazards.md R129,
60_exceptions.md R122), and the invariant of the block (10_state.md R33) and of its responses
(30_encoding.md R59). -/

namespace Sys2Proof.Machine

/-- The two blocks hold the same registers of unit `u` (10_state.md R16). -/
def Block.agreeOn (u : UnitId) (a b : Block) : Bool :=
  match u with
  | .amie => a.amie = b.amie
  | .hdb3e => a.hdb3e = b.hdb3e
  | .hdb3d => a.hdb3d = b.hdb3d
  | .dme => a.dme = b.dme
  | .dmd => a.dmd = b.dmd

/-- `s` with the words `ws` presented next, before whatever the host was to present. -/
def State.presentWords (ws : List CommandWord) (s : State) : State :=
  { s with input := ws.map HostInput.command ++ s.input }

/-- `s` with the commands `is` presented next. -/
def State.present (is : List Instr) (s : State) : State := s.presentWords (is.map encode)

/-- The commands of a pass of unit `u` with the payloads `x`: START, one DATA a symbol, END
(30_encoding.md R61, 40_dispatch.md R67). -/
def passOf (u : UnitId) (x : List SymbolCode) : List Instr :=
  startOf u :: x.map (dataOf u) ++ [endOf u]

/-- A command word with the response it got. -/
structure Exchange where
  word : CommandWord
  response : ResponseWord
deriving DecidableEq, Repr

/-- The exchanges of a run that began in `s`, presented the words `ws` and ended in `t` (DEDUCED, log entry
10: a stretch of a run without a reset; safe). -/
def exchanges (ws : List CommandWord) (s t : State) : List Exchange :=
  List.zipWith Exchange.mk ws (t.responses.drop s.responses.length)

/-- The three endings of a pass (R67). -/
inductive PassEnding where
  /-- It ends with the first END to the unit that is not rejected with SEQUENCE_ERROR. -/
  | closed
  /-- A later START to the unit comes first. -/
  | abandoned
  /-- The command stream ends first (R67 calls the pass open). -/
  | unended
deriving DecidableEq, Repr

/-- A pass: its exchanges, the START's among them, and how it ends (R67). -/
structure Pass where
  exchanges : List Exchange
  ending : PassEnding
deriving DecidableEq, Repr

/-- The rest of a pass of unit `u` after its START: the commands to `u` up to the pass's ending. Commands
to other units and illegal words are not part of it (R67). -/
def passBody (u : UnitId) : List Exchange → Pass
  | [] => { exchanges := [], ending := .unended }
  | e :: rest =>
    match decode e.word with
    | .error _ => passBody u rest
    | .ok i =>
      if i.unit ≠ u then passBody u rest
      else
        match i.operation with
        | .start => { exchanges := [], ending := .abandoned }
        | .data =>
          { exchanges := e :: (passBody u rest).exchanges, ending := (passBody u rest).ending }
        | .close =>
          if statusOf e.response = Status.sequenceError.code then
            { exchanges := e :: (passBody u rest).exchanges, ending := (passBody u rest).ending }
          else { exchanges := [e], ending := .closed }

/-- The passes of unit `u` in a list of exchanges, one for each START to `u` (R67). -/
def passesOf (u : UnitId) : List Exchange → List Pass
  | [] => []
  | e :: rest =>
    match decode e.word with
    | .error _ => passesOf u rest
    | .ok i =>
      if i = startOf u then
        { exchanges := e :: (passBody u rest).exchanges, ending := (passBody u rest).ending }
          :: passesOf u rest
      else passesOf u rest

/-- The payload of an exchange that is an accepted DATA (R67). -/
def acceptedPayload (e : Exchange) : Option SymbolCode :=
  match decode e.word with
  | .error _ => none
  | .ok i =>
    if i.operation = .data ∧ statusOf e.response = Status.ok.code then some i.payload else none

/-- The input of a pass: the symbols of its accepted DATA commands, in order (R67). -/
def Pass.input (p : Pass) : List SymbolCode := p.exchanges.filterMap acceptedPayload

/-- The output of a pass: OUT of every response in it, in command order (R67). -/
def Pass.output (p : Pass) : List SymbolCode := p.exchanges.flatMap fun e => symbolsOf e.response

/-- The record list of a pass (R67). -/
def Pass.records (p : Pass) : List Pattern := p.exchanges.filterMap fun e => recordOf e.response

/-- A pass is clean when it is closed and every DATA in it, and its END, returned OK (R67). Its START
always returns OK (R63), so all its responses are OK. -/
def Pass.clean (p : Pass) : Bool :=
  p.ending = .closed && p.exchanges.all fun e => statusOf e.response = Status.ok.code

/-- The host keeps its duties toward unit `u`: START before DATA and END (70_reset_and_hazards.md R129),
and only symbols of the unit's alphabet (30_encoding.md R56). `begun` says whether a pass is open. -/
def orderly (u : UnitId) (begun : Bool) : List Instr → Bool
  | [] => true
  | i :: rest =>
    if i.unit ≠ u then orderly u begun rest
    else
      match i.operation with
      | .start => orderly u true rest
      | .data => begun && validPayload u i.payload && orderly u true rest
      | .close => begun && orderly u false rest

/-- The invariant of HDB3E (10_state.md R33): at most three samples wait; and while a pass is open, or
was aborted, ZRUN ≤ DLN and the youngest ZRUN entries of DL are 0. After END the unit is IDLE, with DL
empty and ZRUN kept (40_dispatch.md R65), so in IDLE the first alone holds (DEDUCED, log entry 11; safe). -/
def Hdb3e.inv (u : Hdb3e) : Bool :=
  u.dl.length ≤ Config.delayDepth &&
    (u.mode = .idle || (u.zrun.toNat ≤ u.dl.length && (u.dl.reverse.take u.zrun.toNat).all (· = .zero)))

/-- The invariant of HDB3D (10_state.md R33): BUFN ≤ 3. -/
def Hdb3d.inv (u : Hdb3d) : Bool := u.buf.length + 1 ≤ Config.windowLength

/-- The invariant of DMD: HALF never holds the sample 0, which is rejected (30_encoding.md R54). -/
def Dmd.inv (u : Dmd) : Bool := u.half ≠ some .zero

/-- The invariant of the block (10_state.md R33). -/
def Block.inv (b : Block) : Bool := b.hdb3e.inv && b.hdb3d.inv && b.dmd.inv

/-- A response word has the form of 30_encoding.md R59: bits 7, 14 and 15 are 0; STATUS is not 6 or 7
(60_exceptions.md R113); unused slots and REC_P without a record are 0; a status other than OK carries no
symbol and no record; and no slot holds the code 10 (30_encoding.md R52, R53). -/
def responseOk (r : ResponseWord) : Bool :=
  r.extractLsb' 7 1 = 0#1 && r.extractLsb' 14 2 = 0#2
    && statusOf r ≠ 6#3 && statusOf r ≠ 7#3
    && (1 ≤ countOf r || r.extractLsb' 8 2 = 0#2)
    && (2 ≤ countOf r || r.extractLsb' 10 2 = 0#2)
    && (3 ≤ countOf r || r.extractLsb' 12 2 = 0#2)
    && (r.extractLsb' 5 1 = 1#1 || r.extractLsb' 6 1 = 0#1)
    && (statusOf r = 0#3 || (countOf r = 0 && r.extractLsb' 5 1 = 0#1))
    && r.extractLsb' 8 2 ≠ 2#2 && r.extractLsb' 10 2 ≠ 2#2 && r.extractLsb' 12 2 ≠ 2#2

/-- The invariant every step keeps: the block's, and every response returned has the form of R59. -/
def State.inv (s : State) : Bool := s.block.inv && s.responses.all responseOk

end Sys2Proof.Machine
end

