-- ==== Sys2Proof/Certificates/Slice0/Obligations.lean ====
section
/-! DEFINITION. The statements about the machine, one `Obligations.<Name>` each; OBLIGATIONS.json lists them
with the rules of spec/ they formalise. The state an instruction ends in is written out in full, so each
such statement is the instruction's result, its frame and its completion at once: every register, every
other unit, the host's remaining input and every earlier response is as before unless it is written here. -/

open Sys2Proof Sys2Proof.Machine

/-! ## The encoding (30_encoding.md) -/

/-- Decoding and encoding agree, both ways: no bit of a command word is dropped (R55, R57). -/
def Obligations.DecodeAndEncodeAgree : Prop :=
  (∀ i : Instr, i.wf = true → decode (encode i) = .ok i) ∧
  (∀ (w : CommandWord) (i : Instr), decode w = .ok i → i.wf = true ∧ encode i = w)

/-- R55: a word is `Illegal` exactly when one of the four tests on its fields fails; otherwise it decodes to
its unit, operation and payload; a DATA decodes whatever its payload, which is judged only while the unit is
ACTIVE; and an `Illegal` word is answered ILLEGAL_COMMAND with no state change. -/
def Obligations.DecodeTestsTheFields : Prop :=
  (∀ w : CommandWord, isIllegal w = true ↔
    (4 < w.toNat / 32 ∨ w.toNat / 8 % 4 = 3 ∨ w.toNat / 4 % 2 = 1 ∨
      (w.toNat / 8 % 4 ≠ 1 ∧ w.toNat % 4 ≠ 0))) ∧
  (∀ (w : CommandWord) (i : Instr), decode w = .ok i →
    i.unit.code.toNat = w.toNat / 32 ∧ i.operation.code.toNat = w.toNat / 8 % 4 ∧
      i.payload.toNat = w.toNat % 4) ∧
  (∀ (u : UnitId) (pay : SymbolCode), decode (encode (dataOf u pay)) = .ok (dataOf u pay)) ∧
  (∀ (u : UnitId) (s : State) (pay pay' : SymbolCode), s.block.mode u ≠ .active →
    exec (dataOf u pay) s = exec (dataOf u pay') s) ∧
  (∀ (s : State) (w : CommandWord) (rest : List HostInput),
    s.input = .command w :: rest → isIllegal w = true →
      step s = .next { block := s.block, input := rest, responses := s.responses ++ [0x0004#16] })

/-- R57: the complete command map, word by word, with the spelling of every word that has one; every word
outside it is `Illegal`; of the DATA words 11 carry a valid symbol and 9 an invalid one. -/
def Obligations.CommandMapOfThirtyWords : Prop :=
  let map : List (CommandWord × Instr) :=
    [(0x00#8, .amieStart), (0x08#8, .amieData 0#2), (0x09#8, .amieData 1#2), (0x0A#8, .amieData 2#2),
      (0x0B#8, .amieData 3#2), (0x10#8, .amieEnd),
      (0x20#8, .hdb3eStart), (0x28#8, .hdb3eData 0#2), (0x29#8, .hdb3eData 1#2),
      (0x2A#8, .hdb3eData 2#2), (0x2B#8, .hdb3eData 3#2), (0x30#8, .hdb3eEnd),
      (0x40#8, .hdb3dStart), (0x48#8, .hdb3dData 0#2), (0x49#8, .hdb3dData 1#2),
      (0x4A#8, .hdb3dData 2#2), (0x4B#8, .hdb3dData 3#2), (0x50#8, .hdb3dEnd),
      (0x60#8, .dmeStart), (0x68#8, .dmeData 0#2), (0x69#8, .dmeData 1#2), (0x6A#8, .dmeData 2#2),
      (0x6B#8, .dmeData 3#2), (0x70#8, .dmeEnd),
      (0x80#8, .dmdStart), (0x88#8, .dmdData 0#2), (0x89#8, .dmdData 1#2), (0x8A#8, .dmdData 2#2),
      (0x8B#8, .dmdData 3#2), (0x90#8, .dmdEnd)]
  let spelled : List (CommandWord × String) :=
    [(0x00#8, "AMIE.START"), (0x08#8, "AMIE.DATA 0"), (0x09#8, "AMIE.DATA 1"), (0x10#8, "AMIE.END"),
      (0x20#8, "HDB3E.START"), (0x28#8, "HDB3E.DATA 0"), (0x29#8, "HDB3E.DATA 1"),
      (0x30#8, "HDB3E.END"), (0x40#8, "HDB3D.START"), (0x48#8, "HDB3D.DATA 0"),
      (0x49#8, "HDB3D.DATA +1"), (0x4B#8, "HDB3D.DATA -1"), (0x50#8, "HDB3D.END"),
      (0x60#8, "DME.START"), (0x68#8, "DME.DATA 0"), (0x69#8, "DME.DATA 1"), (0x70#8, "DME.END"),
      (0x80#8, "DMD.START"), (0x89#8, "DMD.DATA +1"), (0x8B#8, "DMD.DATA -1"), (0x90#8, "DMD.END")]
  (∀ row ∈ map, decode row.1 = .ok row.2) ∧
  (∀ row ∈ spelled, assembleLine row.2.toList = some [row.1]) ∧
  (∀ w : CommandWord, w ∉ map.map Prod.fst → isIllegal w = true) ∧
  map.length = 30 ∧
  (map.countP fun row => row.2.operation = .start) = 5 ∧
  (map.countP fun row => row.2.operation = .close) = 5 ∧
  (map.countP fun row => row.2.operation = .data && validPayload row.2.unit row.2.payload) = 11 ∧
  (map.countP fun row => row.2.operation = .data && !validPayload row.2.unit row.2.payload) = 9

/-- R58: the four kinds of reserved words, their numbers, that all of them are `Illegal` and nothing else is,
and that every one of them is answered ILLEGAL_COMMAND: none is a hint or a no-op. -/
def Obligations.ReservedWordsAreIllegal : Prop :=
  let all := (List.range 256).map (BitVec.ofNat 8)
  let unit (w : CommandWord) := w.toNat / 32
  let op (w : CommandWord) := w.toNat / 8 % 4
  let rsv (w : CommandWord) := w.toNat / 4 % 2
  let pay (w : CommandWord) := w.toNat % 4
  let reservedUnit := all.filter fun w => 5 ≤ unit w
  let reservedOp := all.filter fun w => unit w ≤ 4 && op w = 3
  let reservedBit := all.filter fun w => unit w ≤ 4 && op w ≤ 2 && rsv w = 1
  let strayPay := all.filter fun w =>
    unit w ≤ 4 && (op w = 0 || op w = 2) && rsv w = 0 && pay w ≠ 0
  reservedUnit = (List.range 96).map (fun k => BitVec.ofNat 8 (0xA0 + k)) ∧
  reservedUnit.length = 96 ∧ reservedOp.length = 40 ∧ reservedBit.length = 60 ∧ strayPay.length = 30 ∧
  (∀ w : CommandWord,
    isIllegal w = true ↔ w ∈ reservedUnit ++ reservedOp ++ reservedBit ++ strayPay) ∧
  (all.countP isIllegal) = 226 ∧
  (∀ (s : State) (w : CommandWord) (rest : List HostInput),
    s.input = .command w :: rest → isIllegal w = true →
      step s = .next { block := s.block, input := rest, responses := s.responses ++ [0x0004#16] })

/-- R59: where each field of an assembled response stands, for at most three output symbols. -/
def Obligations.ResponseFieldsStandWhereR59Says : Prop :=
  ∀ (st : Status) (out : List SymbolCode) (r : Option Pattern), out.length ≤ 3 →
    let w := responseWord st { out := out, record := r }
    w.toNat % 8 = st.code.toNat ∧
    w.toNat / 8 % 4 = out.length ∧
    w.toNat / 32 % 2 = (if r = none then 0 else 1) ∧
    w.toNat / 64 % 2 = (if r = some .odd then 1 else 0) ∧
    w.toNat / 128 % 2 = 0 ∧
    w.toNat / 256 % 4 = (out.getD 0 0#2).toNat ∧
    w.toNat / 1024 % 4 = (out.getD 1 0#2).toNat ∧
    w.toNat / 4096 % 4 = (out.getD 2 0#2).toNat ∧
    w.toNat / 16384 = 0 ∧
    symbolsOf w = out ∧ recordOf w = r ∧ statusOf w = st.code

/-- R52, R53, R54, R56: a sample code is the two's complement of its sample; the codes 10 (and for bits 11,
for DMD 00) are no symbols; reading a symbol's code gives the symbol back. -/
def Obligations.SymbolCodesAreTwosComplement : Prop :=
  (∀ x : Sample, x.code.toInt = x.value) ∧
  (∀ x : Sample, sampleSymbol x.code = some x) ∧ sampleSymbol 2#2 = none ∧
  (∀ p : Polarity, dmSymbol p.sample.code = some p.sample) ∧ dmSymbol 0#2 = none ∧
    dmSymbol 2#2 = none ∧
  (∀ b : Bit, bitSymbol (bitCode b) = some b) ∧ (∀ b : Bit, (bitCode b).toNat = b.toNat) ∧
    bitSymbol 2#2 = none ∧ bitSymbol 3#2 = none

/-! ## The step (40_dispatch.md, 70_reset_and_hazards.md) -/

/-- R62: where the host presents a word that decodes to `i`, the step takes it off the port and is `exec i`. -/
def Obligations.StepRunsDecodedCommand : Prop :=
  ∀ (s : State) (w : CommandWord) (rest : List HostInput) (i : Instr),
    s.input = .command w :: rest → decode w = .ok i → i.wf = true →
      step s = exec i { s with input := rest }

/-- R114: an `Illegal` word returns ILLEGAL_COMMAND, OUT = [] and no record, and no register of any unit
changes, even when its UNIT field is a valid unit. -/
def Obligations.IllegalWordChangesNoRegister : Prop :=
  ∀ (s : State) (w : CommandWord) (rest : List HostInput) (e : DecodeError),
    s.input = .command w :: rest → decode w = .error e →
      step s = .next { block := s.block, input := rest, responses := s.responses ++ [0x0004#16] }

/-- R127: asserting reset gives every register its reset value, discards what an open pass has buffered and
returns no response; no command word causes it; the model starts in that state. -/
def Obligations.ResetInputRestoresEveryRegister : Prop :=
  let idle : Block :=
    { amie := { mode := .idle, pol := .plus },
      hdb3e := { mode := .idle, pol := .plus, zrun := 0#2, pp := .even, dl := [] },
      hdb3d := { mode := .idle, buf := [] },
      dme := { mode := .idle, st := .plus },
      dmd := { mode := .idle, st := .plus, half := none } }
  (∀ (s : State) (rest : List HostInput), s.input = .reset :: rest →
    step s = .next { block := idle, input := rest, responses := s.responses }) ∧
  (∀ w : CommandWord, ∃ s t : State, s.input = [.command w] ∧ step s = .next t ∧ t.block ≠ idle) ∧
  Host.Core.reset Sys2Proof.core = ({ block := idle, input := [], responses := [] } : State)

/-- R34: the reset values; and in IDLE they cannot be observed: no command reads a datapath register of an
IDLE unit, since DATA and END are rejected and START overwrites them. -/
def Obligations.ResetValuesAreUnobservable : Prop :=
  State.reset.block =
    { amie := { mode := .idle, pol := .plus },
      hdb3e := { mode := .idle, pol := .plus, zrun := 0#2, pp := .even, dl := [] },
      hdb3d := { mode := .idle, buf := [] },
      dme := { mode := .idle, st := .plus },
      dmd := { mode := .idle, st := .plus, half := none } } ∧
  (∀ (i : Instr) (s : State) (b : Block),
    s.block.mode i.unit = .idle → b.mode i.unit = .idle →
    (∀ v : UnitId, v ≠ i.unit → Block.agreeOn v s.block b = true) →
    ∃ t t' : State, exec i s = .next t ∧ exec i { s with block := b } = .next t' ∧
      t.responses = t'.responses ∧
      (i.operation = .start → t = t') ∧
      (i.operation ≠ .start → t.block = s.block ∧ t'.block = b))

/-- The model's own choice (log entry 3): while the host presents nothing, a step changes nothing. -/
def Obligations.IdlePortLeavesMachineUnchanged : Prop :=
  ∀ s : State, s.input = [] → step s = .next s

/-- R62, its last sentences: every word and every state has an outcome, and it is a next state: no step
faults or refuses. A command takes one word and returns one response. -/
def Obligations.EveryStepCompletes : Prop :=
  ∀ s : State, ∃ t : State, step s = .next t ∧
    (∀ (w : CommandWord) (rest : List HostInput), s.input = .command w :: rest →
      t.input = rest ∧ ∃ r : ResponseWord, t.responses = s.responses ++ [r])

/-! ## The AMI encoder (41_ami_encoder.md) -/

/-- R74: AMIE.START, word 0x00, is accepted in every mode, writes POL and MODE alone and returns 0x0000. -/
def Obligations.AmieStartOpensPassAtPlusOne : Prop :=
  decode 0x00#8 = .ok .amieStart ∧
  ∀ s : State, exec .amieStart s = .next
    { s with
      block := { s.block with amie := { mode := .active, pol := .plus } },
      responses := s.responses ++ [0x0000#16] }

/-- R75: AMIE.DATA emits the polarity POL and negates POL for a 1, and emits 0 and keeps POL for a 0; with
its words, and its status in each mode. -/
def Obligations.AmieDataEmitsAlternatingMark : Prop :=
  decode 0x08#8 = .ok (.amieData 0#2) ∧ decode 0x09#8 = .ok (.amieData 1#2) ∧
  decode 0x0A#8 = .ok (.amieData 2#2) ∧ decode 0x0B#8 = .ok (.amieData 3#2) ∧
  ∀ s : State,
    (s.block.amie.mode = .active →
      exec (.amieData 0#2) s = .next { s with responses := s.responses ++ [0x0008#16] } ∧
      (s.block.amie.pol = .plus → exec (.amieData 1#2) s = .next
        { s with
          block := { s.block with amie := { s.block.amie with pol := .minus } },
          responses := s.responses ++ [0x0108#16] }) ∧
      (s.block.amie.pol = .minus → exec (.amieData 1#2) s = .next
        { s with
          block := { s.block with amie := { s.block.amie with pol := .plus } },
          responses := s.responses ++ [0x0308#16] }) ∧
      ∀ pay : SymbolCode, pay = 2#2 ∨ pay = 3#2 → exec (.amieData pay) s = .next
        { s with
          block := { s.block with amie := { s.block.amie with mode := .error } },
          responses := s.responses ++ [0x0001#16] }) ∧
    (s.block.amie.mode = .idle → ∀ pay : SymbolCode,
      exec (.amieData pay) s = .next { s with responses := s.responses ++ [0x0003#16] }) ∧
    (s.block.amie.mode = .error → ∀ pay : SymbolCode,
      exec (.amieData pay) s = .next { s with responses := s.responses ++ [0x0005#16] })

/-- R76: AMIE.END, word 0x10, closes the pass: MODE alone is written and POL keeps its value. -/
def Obligations.AmieEndClosesPass : Prop :=
  decode 0x10#8 = .ok .amieEnd ∧
  ∀ s : State,
    (s.block.amie.mode = .active → exec .amieEnd s = .next
      { s with
        block := { s.block with amie := { s.block.amie with mode := .idle } },
        responses := s.responses ++ [0x0000#16] }) ∧
    (s.block.amie.mode = .idle →
      exec .amieEnd s = .next { s with responses := s.responses ++ [0x0003#16] }) ∧
    (s.block.amie.mode = .error → exec .amieEnd s = .next
      { s with
        block := { s.block with amie := { s.block.amie with mode := .idle } },
        responses := s.responses ++ [0x0005#16] })

/-! ## The HDB3 encoder (42_hdb3_encoder.md) -/

/-- R87: HDB3E.START, word 0x20, writes every register of the unit; samples in DL are discarded. -/
def Obligations.Hdb3eStartDiscardsDelayLine : Prop :=
  decode 0x20#8 = .ok .hdb3eStart ∧
  ∀ s : State, exec .hdb3eStart s = .next
    { s with
      block := { s.block with
        hdb3e := { mode := .active, pol := .plus, zrun := 0#2, pp := .even, dl := [] } },
      responses := s.responses ++ [0x0000#16] }

/-- R88: HDB3E.DATA. While the delay line fills nothing leaves it; once it is full the oldest sample leaves. A
mark adds POL, negates POL and flips PP; a zero adds 0 and counts in ZRUN; the fourth zero of a run
substitutes with the pattern and the record the parity selects, flips PP and leaves POL. The rule's paragraph
on ZRUN = 3: then DL holds the three zeros of the run. The statuses in the other cases and modes. The
responses of a substitution in a run are 0x0128 (EVEN) and 0x0068 (ODD, the rule's example). -/
def Obligations.Hdb3eDataSubstitutesFourthZero : Prop :=
  decode 0x28#8 = .ok (.hdb3eData 0#2) ∧ decode 0x29#8 = .ok (.hdb3eData 1#2) ∧
  decode 0x2A#8 = .ok (.hdb3eData 2#2) ∧ decode 0x2B#8 = .ok (.hdb3eData 3#2) ∧
  (∀ u : Hdb3e, u.inv = true → u.mode ≠ .idle → u.zrun = 3#2 → u.dl = [.zero, .zero, .zero]) ∧
  (∀ s : State, s.block.hdb3e.mode = .active → s.block.hdb3e.dl.length < 3 →
    exec (.hdb3eData 1#2) s = .next
      { s with
        block := { s.block with hdb3e :=
          { s.block.hdb3e with
            pol := if s.block.hdb3e.pol = .plus then .minus else .plus,
            pp := if s.block.hdb3e.pp = .even then .odd else .even,
            zrun := 0#2,
            dl := s.block.hdb3e.dl ++ [if s.block.hdb3e.pol = .plus then .plus else .minus] } },
        responses := s.responses ++ [0x0000#16] } ∧
    (s.block.hdb3e.zrun ≠ 3#2 → exec (.hdb3eData 0#2) s = .next
      { s with
        block := { s.block with hdb3e :=
          { s.block.hdb3e with
            zrun := s.block.hdb3e.zrun + 1#2, dl := s.block.hdb3e.dl ++ [.zero] } },
        responses := s.responses ++ [0x0000#16] })) ∧
  (∀ (s : State) (x y z : Sample), s.block.hdb3e.mode = .active → s.block.hdb3e.dl = [x, y, z] →
    exec (.hdb3eData 1#2) s = .next
      { s with
        block := { s.block with hdb3e :=
          { s.block.hdb3e with
            pol := if s.block.hdb3e.pol = .plus then .minus else .plus,
            pp := if s.block.hdb3e.pp = .even then .odd else .even,
            zrun := 0#2,
            dl := [y, z, if s.block.hdb3e.pol = .plus then .plus else .minus] } },
        responses := s.responses ++
          [match x with | .zero => 0x0008#16 | .plus => 0x0108#16 | .minus => 0x0308#16] } ∧
    (s.block.hdb3e.zrun ≠ 3#2 → exec (.hdb3eData 0#2) s = .next
      { s with
        block := { s.block with hdb3e :=
          { s.block.hdb3e with zrun := s.block.hdb3e.zrun + 1#2, dl := [y, z, .zero] } },
        responses := s.responses ++
          [match x with | .zero => 0x0008#16 | .plus => 0x0108#16 | .minus => 0x0308#16] }) ∧
    (s.block.hdb3e.zrun = 3#2 → s.block.hdb3e.pp = .even → exec (.hdb3eData 0#2) s = .next
      { s with
        block := { s.block with hdb3e :=
          { s.block.hdb3e with zrun := 0#2, pp := .odd, dl := [y, z, .minus] } },
        responses := s.responses ++ [0x0128#16] }) ∧
    (s.block.hdb3e.zrun = 3#2 → s.block.hdb3e.pp = .odd → exec (.hdb3eData 0#2) s = .next
      { s with
        block := { s.block with hdb3e :=
          { s.block.hdb3e with zrun := 0#2, pp := .even, dl := [y, z, .plus] } },
        responses := s.responses ++
          [match x with | .zero => 0x0068#16 | .plus => 0x0168#16 | .minus => 0x0368#16] })) ∧
  (∀ (s : State) (pay : SymbolCode),
    (s.block.hdb3e.mode = .active → pay = 2#2 ∨ pay = 3#2 → exec (.hdb3eData pay) s = .next
      { s with
        block := { s.block with hdb3e := { s.block.hdb3e with mode := .error } },
        responses := s.responses ++ [0x0001#16] }) ∧
    (s.block.hdb3e.mode = .idle →
      exec (.hdb3eData pay) s = .next { s with responses := s.responses ++ [0x0003#16] }) ∧
    (s.block.hdb3e.mode = .error →
      exec (.hdb3eData pay) s = .next { s with responses := s.responses ++ [0x0005#16] }))

/-- R89: HDB3E.END, word 0x30, emits what the delay line holds, oldest first, and empties it; POL, ZRUN and
PP keep their values; ABORTED emits nothing. -/
def Obligations.Hdb3eEndFlushesDelayLine : Prop :=
  let at_ (x : Sample) (k : Nat) : ResponseWord := x.code.setWidth 16 <<< k
  decode 0x30#8 = .ok .hdb3eEnd ∧
  ∀ s : State,
    (s.block.hdb3e.mode = .active →
      ∀ w : ResponseWord,
        ((s.block.hdb3e.dl = [] ∧ w = 0x0000#16) ∨
          (∃ x, s.block.hdb3e.dl = [x] ∧ w = 0x0008#16 ||| at_ x 8) ∨
          (∃ x y, s.block.hdb3e.dl = [x, y] ∧ w = 0x0010#16 ||| at_ x 8 ||| at_ y 10) ∨
          (∃ x y z, s.block.hdb3e.dl = [x, y, z] ∧
            w = 0x0018#16 ||| at_ x 8 ||| at_ y 10 ||| at_ z 12)) →
        exec .hdb3eEnd s = .next
          { s with
            block := { s.block with hdb3e := { s.block.hdb3e with mode := .idle, dl := [] } },
            responses := s.responses ++ [w] }) ∧
    (s.block.hdb3e.mode = .idle →
      exec .hdb3eEnd s = .next { s with responses := s.responses ++ [0x0003#16] }) ∧
    (s.block.hdb3e.mode = .error → exec .hdb3eEnd s = .next
      { s with
        block := { s.block with hdb3e := { s.block.hdb3e with mode := .idle } },
        responses := s.responses ++ [0x0005#16] })

/-! ## The HDB3 decoder (43_hdb3_decoder.md) -/

/-- R95: HDB3D.START, word 0x40, empties BUF: buffered samples are discarded undecoded. -/
def Obligations.Hdb3dStartDiscardsBuffer : Prop :=
  decode 0x40#8 = .ok .hdb3dStart ∧
  ∀ s : State, exec .hdb3dStart s = .next
    { s with
      block := { s.block with hdb3d := { mode := .active, buf := [] } },
      responses := s.responses ++ [0x0000#16] }

/-- R96: HDB3D.DATA holds the first three samples; the fourth makes a window of three zeros and any sample
one `0`, or decides the sample under the cursor alone; with its words, and its status in each mode. -/
def Obligations.Hdb3dDataDecidesFourthSample : Prop :=
  decode 0x48#8 = .ok (.hdb3dData 0#2) ∧ decode 0x49#8 = .ok (.hdb3dData 1#2) ∧
  decode 0x4A#8 = .ok (.hdb3dData 2#2) ∧ decode 0x4B#8 = .ok (.hdb3dData 3#2) ∧
  ∀ s : State,
    (s.block.hdb3d.mode = .active →
      (∀ (pay : SymbolCode) (x : Sample),
        (pay = 0#2 ∧ x = .zero) ∨ (pay = 1#2 ∧ x = .plus) ∨ (pay = 3#2 ∧ x = .minus) →
        (s.block.hdb3d.buf.length < 3 → exec (.hdb3dData pay) s = .next
          { s with
            block := { s.block with hdb3d :=
              { s.block.hdb3d with buf := s.block.hdb3d.buf ++ [x] } },
            responses := s.responses ++ [0x0000#16] }) ∧
        (s.block.hdb3d.buf = [.zero, .zero, .zero] → exec (.hdb3dData pay) s = .next
          { s with
            block := { s.block with hdb3d := { s.block.hdb3d with buf := [] } },
            responses := s.responses ++ [0x0008#16] }) ∧
        (∀ a b c : Sample, s.block.hdb3d.buf = [a, b, c] → a ≠ .zero →
          exec (.hdb3dData pay) s = .next
            { s with
              block := { s.block with hdb3d := { s.block.hdb3d with buf := [b, c, x] } },
              responses := s.responses ++ [0x0108#16] }) ∧
        (∀ b c : Sample, s.block.hdb3d.buf = [.zero, b, c] → b ≠ .zero ∨ c ≠ .zero →
          exec (.hdb3dData pay) s = .next
            { s with
              block := { s.block with hdb3d := { s.block.hdb3d with buf := [b, c, x] } },
              responses := s.responses ++ [0x0008#16] })) ∧
      exec (.hdb3dData 2#2) s = .next
        { s with
          block := { s.block with hdb3d := { s.block.hdb3d with mode := .error } },
          responses := s.responses ++ [0x0001#16] }) ∧
    (s.block.hdb3d.mode = .idle → ∀ pay : SymbolCode,
      exec (.hdb3dData pay) s = .next { s with responses := s.responses ++ [0x0003#16] }) ∧
    (s.block.hdb3d.mode = .error → ∀ pay : SymbolCode,
      exec (.hdb3dData pay) s = .next { s with responses := s.responses ++ [0x0005#16] })

/-- R97: HDB3D.END, word 0x50, decodes each sample still held on its own, non-zero to `1` and zero to `0`,
and empties BUF. -/
def Obligations.Hdb3dEndDecodesRemainder : Prop :=
  let at_ (x : Sample) (k : Nat) : ResponseWord := (if x = .zero then 0#16 else 1#16) <<< k
  decode 0x50#8 = .ok .hdb3dEnd ∧
  ∀ s : State,
    (s.block.hdb3d.mode = .active →
      ∀ w : ResponseWord,
        ((s.block.hdb3d.buf = [] ∧ w = 0x0000#16) ∨
          (∃ x, s.block.hdb3d.buf = [x] ∧ w = 0x0008#16 ||| at_ x 8) ∨
          (∃ x y, s.block.hdb3d.buf = [x, y] ∧ w = 0x0010#16 ||| at_ x 8 ||| at_ y 10) ∨
          (∃ x y z, s.block.hdb3d.buf = [x, y, z] ∧
            w = 0x0018#16 ||| at_ x 8 ||| at_ y 10 ||| at_ z 12)) →
        exec .hdb3dEnd s = .next
          { s with
            block := { s.block with hdb3d := { mode := .idle, buf := [] } },
            responses := s.responses ++ [w] }) ∧
    (s.block.hdb3d.mode = .idle →
      exec .hdb3dEnd s = .next { s with responses := s.responses ++ [0x0003#16] }) ∧
    (s.block.hdb3d.mode = .error → exec .hdb3dEnd s = .next
      { s with
        block := { s.block with hdb3d := { s.block.hdb3d with mode := .idle } },
        responses := s.responses ++ [0x0005#16] })

/-! ## The Differential Manchester encoder (44_dm_encoder.md) -/

/-- R101: DME.START, word 0x60, sets ST to +1, mid-pass too. -/
def Obligations.DmeStartSetsStateToPlusOne : Prop :=
  decode 0x60#8 = .ok .dmeStart ∧
  ∀ s : State, exec .dmeStart s = .next
    { s with
      block := { s.block with dme := { mode := .active, st := .plus } },
      responses := s.responses ++ [0x0000#16] }

/-- R102: DME.DATA emits [ST, -ST] for a 0 and keeps ST, and emits [-ST, ST] for a 1 and negates ST: the pair
[+1, -1] is the response 0x0D10 and [-1, +1] is 0x0710; with its words, and its status in each mode. -/
def Obligations.DmeDataEmitsPair : Prop :=
  decode 0x68#8 = .ok (.dmeData 0#2) ∧ decode 0x69#8 = .ok (.dmeData 1#2) ∧
  decode 0x6A#8 = .ok (.dmeData 2#2) ∧ decode 0x6B#8 = .ok (.dmeData 3#2) ∧
  ∀ s : State,
    (s.block.dme.mode = .active →
      exec (.dmeData 0#2) s = .next
        { s with
          responses := s.responses ++ [if s.block.dme.st = .plus then 0x0D10#16 else 0x0710#16] } ∧
      exec (.dmeData 1#2) s = .next
        { s with
          block := { s.block with dme :=
            { s.block.dme with st := if s.block.dme.st = .plus then .minus else .plus } },
          responses := s.responses ++ [if s.block.dme.st = .plus then 0x0710#16 else 0x0D10#16] } ∧
      ∀ pay : SymbolCode, pay = 2#2 ∨ pay = 3#2 → exec (.dmeData pay) s = .next
        { s with
          block := { s.block with dme := { s.block.dme with mode := .error } },
          responses := s.responses ++ [0x0001#16] }) ∧
    (s.block.dme.mode = .idle → ∀ pay : SymbolCode,
      exec (.dmeData pay) s = .next { s with responses := s.responses ++ [0x0003#16] }) ∧
    (s.block.dme.mode = .error → ∀ pay : SymbolCode,
      exec (.dmeData pay) s = .next { s with responses := s.responses ++ [0x0005#16] })

/-- R103: DME.END, word 0x70, closes the pass: MODE alone is written. -/
def Obligations.DmeEndClosesPass : Prop :=
  decode 0x70#8 = .ok .dmeEnd ∧
  ∀ s : State,
    (s.block.dme.mode = .active → exec .dmeEnd s = .next
      { s with
        block := { s.block with dme := { s.block.dme with mode := .idle } },
        responses := s.responses ++ [0x0000#16] }) ∧
    (s.block.dme.mode = .idle →
      exec .dmeEnd s = .next { s with responses := s.responses ++ [0x0003#16] }) ∧
    (s.block.dme.mode = .error → exec .dmeEnd s = .next
      { s with
        block := { s.block with dme := { s.block.dme with mode := .idle } },
        responses := s.responses ++ [0x0005#16] })

/-! ## The Differential Manchester decoder (45_dm_decoder.md) -/

/-- R109: DMD.START, word 0x80, sets ST to +1 and clears HALFV: a waiting half pair is discarded, with no
MALFORMED_SIGNAL. -/
def Obligations.DmdStartDiscardsHalfPair : Prop :=
  decode 0x80#8 = .ok .dmdStart ∧
  ∀ s : State, exec .dmdStart s = .next
    { s with
      block := { s.block with dmd := { mode := .active, st := .plus, half := none } },
      responses := s.responses ++ [0x0000#16] }

/-- R110: DMD.DATA holds the first sample of a pair; on the second, which is not examined, it emits `0` where
the held sample equals ST, and `1`, negating ST, where it does not; with its words, and its status in each
mode. -/
def Obligations.DmdDataComparesHeldSample : Prop :=
  decode 0x88#8 = .ok (.dmdData 0#2) ∧ decode 0x89#8 = .ok (.dmdData 1#2) ∧
  decode 0x8A#8 = .ok (.dmdData 2#2) ∧ decode 0x8B#8 = .ok (.dmdData 3#2) ∧
  ∀ s : State,
    (s.block.dmd.mode = .active →
      (s.block.dmd.half = none →
        exec (.dmdData 1#2) s = .next
          { s with
            block := { s.block with dmd := { s.block.dmd with half := some .plus } },
            responses := s.responses ++ [0x0000#16] } ∧
        exec (.dmdData 3#2) s = .next
          { s with
            block := { s.block with dmd := { s.block.dmd with half := some .minus } },
            responses := s.responses ++ [0x0000#16] }) ∧
      (∀ (h : Sample) (pay : SymbolCode), s.block.dmd.half = some h → pay = 1#2 ∨ pay = 3#2 →
        (h = (if s.block.dmd.st = .plus then .plus else .minus) →
          exec (.dmdData pay) s = .next
            { s with
              block := { s.block with dmd := { s.block.dmd with half := none } },
              responses := s.responses ++ [0x0008#16] }) ∧
        (h ≠ (if s.block.dmd.st = .plus then .plus else .minus) →
          exec (.dmdData pay) s = .next
            { s with
              block := { s.block with dmd :=
                { s.block.dmd with
                  half := none, st := if s.block.dmd.st = .plus then .minus else .plus } },
              responses := s.responses ++ [0x0108#16] })) ∧
      ∀ pay : SymbolCode, pay = 0#2 ∨ pay = 2#2 → exec (.dmdData pay) s = .next
        { s with
          block := { s.block with dmd := { s.block.dmd with mode := .error } },
          responses := s.responses ++ [0x0001#16] }) ∧
    (s.block.dmd.mode = .idle → ∀ pay : SymbolCode,
      exec (.dmdData pay) s = .next { s with responses := s.responses ++ [0x0003#16] }) ∧
    (s.block.dmd.mode = .error → ∀ pay : SymbolCode,
      exec (.dmdData pay) s = .next { s with responses := s.responses ++ [0x0005#16] })

/-- R111: DMD.END, word 0x90, returns OK after an even number of samples; after an odd number it drops the
unpaired one and returns MALFORMED_SIGNAL, emitting nothing; the pass closes in both cases. -/
def Obligations.DmdEndFlagsOddLength : Prop :=
  decode 0x90#8 = .ok .dmdEnd ∧
  ∀ s : State,
    (s.block.dmd.mode = .active →
      (s.block.dmd.half = none → exec .dmdEnd s = .next
        { s with
          block := { s.block with dmd := { s.block.dmd with mode := .idle } },
          responses := s.responses ++ [0x0000#16] }) ∧
      (∀ h : Sample, s.block.dmd.half = some h → exec .dmdEnd s = .next
        { s with
          block := { s.block with dmd := { s.block.dmd with mode := .idle, half := none } },
          responses := s.responses ++ [0x0002#16] })) ∧
    (s.block.dmd.mode = .idle →
      exec .dmdEnd s = .next { s with responses := s.responses ++ [0x0003#16] }) ∧
    (s.block.dmd.mode = .error → exec .dmdEnd s = .next
      { s with
        block := { s.block with dmd := { s.block.dmd with mode := .idle } },
        responses := s.responses ++ [0x0005#16] })

/-! ## Rules of all five units (40_dispatch.md, 60_exceptions.md, 10_state.md, 20_memory.md) -/

/-- R63: START is accepted in every mode; the unit's registers take their first values, whatever a pass had
buffered; MODE becomes ACTIVE; the response is OK with no output and no record; two STARTs in a row leave
the same state as one. -/
def Obligations.StartRestartsInEveryMode : Prop :=
  let fresh : Block :=
    { amie := { mode := .active, pol := .plus },
      hdb3e := { mode := .active, pol := .plus, zrun := 0#2, pp := .even, dl := [] },
      hdb3d := { mode := .active, buf := [] },
      dme := { mode := .active, st := .plus },
      dmd := { mode := .active, st := .plus, half := none } }
  ∀ (u : UnitId) (s : State), ∃ t t' : State,
    exec (startOf u) s = .next t ∧ Block.agreeOn u t.block fresh = true ∧
    (∀ v : UnitId, v ≠ u → Block.agreeOn v t.block s.block = true) ∧
    t.input = s.input ∧ t.responses = s.responses ++ [0x0000#16] ∧
    exec (startOf u) t = .next t' ∧ t'.block = t.block

/-- R115: DATA, whatever its payload, and END to an IDLE unit return SEQUENCE_ERROR and change no state. -/
def Obligations.IdleUnitRejectsDataAndEnd : Prop :=
  ∀ (u : UnitId) (pay : SymbolCode) (s : State), s.block.mode u = .idle →
    exec (dataOf u pay) s = .next { s with responses := s.responses ++ [0x0003#16] } ∧
    exec (endOf u) s = .next { s with responses := s.responses ++ [0x0003#16] }

/-- R116: DATA to an ACTIVE unit with a payload outside its alphabet sets MODE to ERROR, changes nothing
else and returns INVALID_SYMBOL; then every DATA and the END of that pass return ABORTED. -/
def Obligations.InvalidSymbolEntersErrorMode : Prop :=
  ∀ (u : UnitId) (pay : SymbolCode) (s : State), s.block.mode u = .active →
    ((u = .amie ∨ u = .hdb3e ∨ u = .dme) ∧ (pay = 2#2 ∨ pay = 3#2)) ∨ (u = .hdb3d ∧ pay = 2#2) ∨
      (u = .dmd ∧ (pay = 0#2 ∨ pay = 2#2)) →
    ∃ t : State, exec (dataOf u pay) s = .next t ∧
      t.responses = s.responses ++ [0x0001#16] ∧ t.input = s.input ∧
      t.block.mode u = .error ∧ t.block.setMode u .active = s.block ∧
      (∀ later : SymbolCode, exec (dataOf u later) t =
        .next { t with responses := t.responses ++ [0x0005#16] }) ∧
      (∃ t' : State, exec (endOf u) t = .next t' ∧ t'.responses = t.responses ++ [0x0005#16])

/-- R117: in ERROR mode DATA returns ABORTED and changes no state; END returns ABORTED and sets MODE to IDLE
alone; START is not aborted and opens a fresh pass. -/
def Obligations.ErrorModeAbortsUntilEndOrStart : Prop :=
  ∀ (u : UnitId) (pay : SymbolCode) (s : State), s.block.mode u = .error →
    exec (dataOf u pay) s = .next { s with responses := s.responses ++ [0x0005#16] } ∧
    (∃ t t' : State, exec (endOf u) s = .next t ∧ t.responses = s.responses ++ [0x0005#16] ∧
      t.input = s.input ∧ t.block.mode u = .idle ∧ t.block.setMode u .error = s.block ∧
      exec (startOf u) t = .next t' ∧ t'.block.mode u = .active) ∧
    (∃ t : State, exec (startOf u) s = .next t ∧ t.responses = s.responses ++ [0x0000#16] ∧
      t.block.mode u = .active)

/-- R119: the status of a command is the first of the listed conditions that applies, in every state. So a
DATA to an IDLE unit changes no register, whatever its payload, and a word with RSV = 1 returns
ILLEGAL_COMMAND in every mode. -/
def Obligations.StatusFollowsPriorityOrder : Prop :=
  ∀ (s : State) (w : CommandWord) (rest : List HostInput), s.input = .command w :: rest →
    ∃ (t : State) (r : ResponseWord), step s = .next t ∧ t.responses = s.responses ++ [r] ∧
      (statusOf r).toNat =
        (match decode w with
        | .error _ => 4
        | .ok i =>
          if i.operation = .start then 0
          else if s.block.mode i.unit = .idle then 3
          else if s.block.mode i.unit = .error then 5
          else if i.operation = .data ∧ validPayload i.unit i.payload = false then 1
          else if i = .dmdEnd ∧ s.block.dmd.half ≠ none then 2
          else 0) ∧
      (∀ i : Instr, decode w = .ok i → i.operation = .data → s.block.mode i.unit = .idle →
        t.block = s.block) ∧
      (w.toNat / 4 % 2 = 1 → (statusOf r).toNat = 4)

/-- R21, Writers: what can change a MODE register, and to what; no other command and no other unit's command
writes it. -/
def Obligations.OnlyNamedCommandsWriteMode : Prop :=
  ∀ (i : Instr) (s t : State) (u : UnitId), exec i s = .next t →
    t.block.mode u ≠ s.block.mode u →
    u = i.unit ∧
      ((i.operation = .start ∧ t.block.mode u = .active) ∨
        (i.operation = .close ∧ s.block.mode u ≠ .idle ∧ t.block.mode u = .idle) ∨
        (i.operation = .data ∧ s.block.mode u = .active ∧ validPayload u i.payload = false ∧
          t.block.mode u = .error))

/-- R17: a command addressed to a unit reads and writes only that unit's state: in two states that agree on
the unit it answers the same and leaves them agreeing, and in every other unit nothing changes. -/
def Obligations.CommandReadsAndWritesItsUnitOnly : Prop :=
  ∀ (i : Instr) (s s' : State), Block.agreeOn i.unit s.block s'.block = true →
    ∃ (t t' : State) (r : ResponseWord), exec i s = .next t ∧ exec i s' = .next t' ∧
      Block.agreeOn i.unit t.block t'.block = true ∧
      t.responses = s.responses ++ [r] ∧ t'.responses = s'.responses ++ [r] ∧
      (∀ v : UnitId, v ≠ i.unit → Block.agreeOn v t.block s.block = true)

/-- R43: two adjacent commands to different units can be swapped with the same final block state and the
same responses; and the responses and final registers of a unit depend on that unit's own commands only,
whatever other commands stand between them. -/
def Obligations.CommandsToDifferentUnitsCommute : Prop :=
  (∀ (i j : Instr) (s : State), i.unit ≠ j.unit →
    ∃ (a b c d : State) (ri rj : ResponseWord),
      exec i s = .next a ∧ exec j a = .next b ∧ exec j s = .next c ∧ exec i c = .next d ∧
      b.block = d.block ∧ b.responses = s.responses ++ [ri, rj] ∧
      d.responses = s.responses ++ [rj, ri]) ∧
  (∀ (u : UnitId) (is : List Instr) (s : State),
    let own := is.filter fun i => i.unit = u
    ∃ t t' : State,
      Host.Core.run Sys2Proof.core is.length (s.present is) = .next t ∧
      Host.Core.run Sys2Proof.core own.length (s.present own) = .next t' ∧
      Block.agreeOn u t.block t'.block = true ∧
      ((is.zip (t.responses.drop s.responses.length)).filter fun p => p.1.unit = u).map Prod.snd =
        t'.responses.drop s.responses.length)

/-- R66, the table: how many symbols each command emits, and that HDB3E.DATA alone sets a record. -/
def Obligations.OutputCountsFollowTable : Prop :=
  ∀ (i : Instr) (s : State), s.block.inv = true →
    ∃ (t : State) (r : ResponseWord), exec i s = .next t ∧ t.responses = s.responses ++ [r] ∧
      countOf r =
        (if statusOf r ≠ Status.ok.code then 0
        else
          match i with
          | .amieStart | .hdb3eStart | .hdb3dStart | .dmeStart | .dmdStart => 0
          | .amieData _ => 1
          | .amieEnd => 0
          | .hdb3eData _ => if s.block.hdb3e.dl.length = 3 then 1 else 0
          | .hdb3eEnd => s.block.hdb3e.dl.length
          | .hdb3dData _ => if s.block.hdb3d.buf.length = 3 then 1 else 0
          | .hdb3dEnd => s.block.hdb3d.buf.length
          | .dmeData _ => 2
          | .dmeEnd => 0
          | .dmdData _ => if s.block.dmd.half = none then 0 else 1
          | .dmdEnd => 0) ∧
      (recordOf r ≠ none → i.unit = .hdb3e ∧ i.operation = .data)

/-- Every step keeps the invariant: the block's (R33: at most three samples wait, ZRUN counts zeros that are
in DL, HALF never holds 0) and the form of every response returned (R59, R113). -/
def Obligations.EveryStepKeepsInvariant : Prop :=
  ∀ s t : State, s.inv = true → step s = .next t → t.inv = true

/-- The invariant holds after reset. -/
def Obligations.InvariantHoldsAtReset : Prop :=
  State.reset.inv = true

/-! ## Passes (40_dispatch.md R67, R68) -/

/-- R77: for every bit stream, from every state, AMIE's clean pass returns OK for every command and its output
is `ami_encode`; the DATA of x[i] carries sample i. -/
def Obligations.AmiePassIsAmiEncode : Prop :=
  ∀ (x : List Bit) (s : State), ∃ (t : State) (rs : List ResponseWord),
    Host.Core.run Sys2Proof.core (x.length + 2) (s.present (passOf .amie (x.map bitCode))) = .next t ∧
    t.input = s.input ∧ t.responses = s.responses ++ rs ∧ rs.length = x.length + 2 ∧
    (∀ r ∈ rs, statusOf r = Status.ok.code) ∧
    rs.flatMap symbolsOf = (amiEncode x).map Sample.code ∧
    (∀ i : Nat, i < x.length →
      (rs[i + 1]?).map symbolsOf = ((amiEncode x)[i]?).map fun v => [v.code])

/-- R90: for every bit stream, from every state, HDB3E's clean pass returns OK for every command, outputs the
signal of `hdb3_encode` three DATA late, END carrying the rest, and has its record list, each record on the
response of the DATA of its group's fourth zero. -/
def Obligations.Hdb3ePassIsHdb3Encode : Prop :=
  ∀ (x : List Bit) (s : State), ∃ (t : State) (rs : List ResponseWord),
    Host.Core.run Sys2Proof.core (x.length + 2) (s.present (passOf .hdb3e (x.map bitCode))) = .next t ∧
    t.input = s.input ∧ t.responses = s.responses ++ rs ∧ rs.length = x.length + 2 ∧
    (∀ r ∈ rs, statusOf r = Status.ok.code) ∧
    rs.flatMap symbolsOf = (hdb3Encode x).1.map Sample.code ∧
    (∀ i : Nat, i < x.length →
      (rs[i + 1]?).map symbolsOf =
        some (if i < 3 then [] else ((hdb3Encode x).1.drop (i - 3)).take 1 |>.map Sample.code)) ∧
    (rs[x.length + 1]?).map symbolsOf =
      some (((hdb3Encode x).1.drop (x.length - min x.length 3)).map Sample.code) ∧
    rs.filterMap recordOf = (hdb3Encode x).2 ∧
    (∀ i : Nat, i < x.length → ∀ r : ResponseWord, rs[i + 1]? = some r →
      ((recordOf r).isSome = true ↔
        x[i]? = some false ∧ trailingZeros (x.take (i + 1)) % 4 = 0))

/-- R98: for every signal over {-1, 0, +1}, from every state, HDB3D's clean pass returns OK for every command
and its output is `hdb3_decode`. -/
def Obligations.Hdb3dPassIsHdb3Decode : Prop :=
  ∀ (x : List Sample) (s : State), ∃ (t : State) (rs : List ResponseWord),
    Host.Core.run Sys2Proof.core (x.length + 2) (s.present (passOf .hdb3d (x.map Sample.code))) =
      .next t ∧
    t.input = s.input ∧ t.responses = s.responses ++ rs ∧ rs.length = x.length + 2 ∧
    (∀ r ∈ rs, statusOf r = Status.ok.code) ∧
    rs.flatMap symbolsOf = (hdb3Decode x).map bitCode

/-- R104: for every bit stream, from every state, DME's clean pass returns OK for every command and its output
is `diff_manchester_encode`; the DATA of x[i] carries positions 2i and 2i+1. -/
def Obligations.DmePassIsDmEncode : Prop :=
  ∀ (x : List Bit) (s : State), ∃ (t : State) (rs : List ResponseWord),
    Host.Core.run Sys2Proof.core (x.length + 2) (s.present (passOf .dme (x.map bitCode))) = .next t ∧
    t.input = s.input ∧ t.responses = s.responses ++ rs ∧ rs.length = x.length + 2 ∧
    (∀ r ∈ rs, statusOf r = Status.ok.code) ∧
    rs.flatMap symbolsOf = (dmEncode x).map Sample.code ∧
    (∀ i : Nat, i < x.length →
      (rs[i + 1]?).map symbolsOf = some (((dmEncode x).drop (2 * i)).take 2 |>.map Sample.code))

/-- R112: for every signal over {-1, +1}, from every state, DMD's pass returns OK for START and every DATA,
and the DATA of x[2k+1] carries bit k; END returns OK for an even length and MALFORMED_SIGNAL for an odd one;
the output is `diff_manchester_decode` of the signal, for an odd length of the first n-1 samples. -/
def Obligations.DmdPassIsDmDecode : Prop :=
  ∀ (x : List Polarity) (s : State),
    let signal := x.map Polarity.sample
    ∃ (t : State) (rs : List ResponseWord) (last : ResponseWord),
      Host.Core.run Sys2Proof.core (x.length + 2) (s.present (passOf .dmd (signal.map Sample.code))) =
        .next t ∧
      t.input = s.input ∧ t.responses = s.responses ++ rs ++ [last] ∧ rs.length = x.length + 1 ∧
      (∀ r ∈ rs, statusOf r = Status.ok.code) ∧
      statusOf last =
        (if x.length % 2 = 0 then Status.ok.code else Status.malformedSignal.code) ∧
      symbolsOf last = [] ∧
      rs.flatMap symbolsOf = (dmDecode (signal.take (x.length - x.length % 2))).map bitCode ∧
      (∀ k : Nat, 2 * k + 1 < x.length →
        (rs[2 * k + 1]?).map symbolsOf = some [] ∧
        (rs[2 * k + 2]?).map symbolsOf = ((dmDecode signal)[k]?).map fun b => [bitCode b])

/-- R68: in every run over any command words from any state, passes of the five units interleaved at will with
each other and with illegal words, a clean pass outputs its unit's reference function of its input, with
the reference records; and a closed DMD pass of odd length is not clean, its END returns MALFORMED_SIGNAL and
its output is the decode of its input without the last sample. -/
def Obligations.CleanPassOutputsReference : Prop :=
  ∀ (ws : List CommandWord) (s : State), ∃ t : State,
    Host.Core.run Sys2Proof.core ws.length (s.presentWords ws) = .next t ∧
    ∀ (u : UnitId) (p : Pass), p ∈ passesOf u (exchanges ws s t) →
      (p.clean = true →
        p.output = referenceOutput u p.input ∧ p.records = referenceRecords u p.input) ∧
      (u = .dmd → p.ending = .closed →
        (∀ e ∈ p.exchanges.dropLast, statusOf e.response = Status.ok.code) →
        p.input.length % 2 = 1 →
          p.clean = false ∧
          (p.exchanges.getLast?).map (fun e => statusOf e.response) =
            some Status.malformedSignal.code ∧
          p.output = referenceOutput .dmd p.input.dropLast)

/-- R129 with R115 to R117: a host that STARTs a unit before its first DATA or END, and sends it only symbols of
its alphabet, gets OK for every command to that unit, or MALFORMED_SIGNAL for DMD.END. -/
def Obligations.OrderlyHostSeesNoError : Prop :=
  ∀ (u : UnitId) (is : List Instr) (s : State), orderly u false is = true →
    ∃ (t : State) (rs : List ResponseWord),
      Host.Core.run Sys2Proof.core is.length (s.present is) = .next t ∧
      t.responses = s.responses ++ rs ∧ rs.length = is.length ∧
      ∀ (k : Nat) (i : Instr) (r : ResponseWord), is[k]? = some i → rs[k]? = some r → i.unit = u →
        statusOf r = Status.ok.code ∨ (i = .dmdEnd ∧ statusOf r = Status.malformedSignal.code)

/-- R33 for AMIE and DME: the register after k accepted DATA of a pass. -/
def Obligations.PolarityCountsMarksOfPass : Prop :=
  ∀ (x : List Bit) (s : State),
    (∃ t : State,
      Host.Core.run Sys2Proof.core (x.length + 1)
        (s.present (.amieStart :: x.map fun b => .amieData (bitCode b))) = .next t ∧
      t.block.amie = { mode := .active, pol := if x.count true % 2 = 0 then .plus else .minus }) ∧
    (∃ t : State,
      Host.Core.run Sys2Proof.core (x.length + 1)
        (s.present (.dmeStart :: x.map fun b => .dmeData (bitCode b))) = .next t ∧
      t.block.dme = { mode := .active, st := if x.count true % 2 = 0 then .plus else .minus } ∧
      (x ≠ [] → (dmEncode x).getLast? = some t.block.dme.st.neg.sample))

/-- R33 for HDB3E: DLN = min(k, 3); ZRUN counts the zeros since the last mark, substitution or START; POL and
PP have the parities of the marks, and of the marks and substitutions, of the pass so far. -/
def Obligations.Hdb3eRegistersAfterPartOfPass : Prop :=
  ∀ (x : List Bit) (s : State), ∃ (t : State) (rs : List ResponseWord),
    Host.Core.run Sys2Proof.core (x.length + 1)
      (s.present (.hdb3eStart :: x.map fun b => .hdb3eData (bitCode b))) = .next t ∧
    t.responses = s.responses ++ rs ∧
    t.block.hdb3e.mode = .active ∧
    t.block.hdb3e.dl.length = min x.length 3 ∧
    t.block.hdb3e.zrun.toNat = trailingZeros x % 4 ∧
    t.block.hdb3e.pol = (if x.count true % 2 = 0 then .plus else .minus) ∧
    t.block.hdb3e.pp =
      (if (x.count true + (rs.filterMap recordOf).length) % 2 = 0 then .even else .odd) ∧
    t.block.hdb3e.dl = (hdb3Encode x).1.drop (x.length - min x.length 3)

/-- R33 for HDB3D: BUF holds the received samples not yet consumed by a decision, in order, and the bits
emitted are the decisions on the others, whatever samples follow. -/
def Obligations.Hdb3dBufferHoldsUndecidedSamples : Prop :=
  ∀ (x : List Sample) (s : State), ∃ (t : State) (rs : List ResponseWord) (out : List Bit)
      (consumed : List Sample),
    Host.Core.run Sys2Proof.core (x.length + 1)
      (s.present (.hdb3dStart :: x.map fun v => .hdb3dData v.code)) = .next t ∧
    t.responses = s.responses ++ rs ∧ rs.flatMap symbolsOf = out.map bitCode ∧
    t.block.hdb3d.mode = .active ∧ t.block.hdb3d.buf.length ≤ 3 ∧
    x = consumed ++ t.block.hdb3d.buf ∧
    (∀ more : List Sample, hdb3Decode (x ++ more) = out ++ hdb3Decode (t.block.hdb3d.buf ++ more))

/-- R33 for DMD: HALFV = k mod 2, HALF holding the last sample; ST = +1 iff the number of `1` bits output is
even. -/
def Obligations.DmdRegistersAfterPartOfPass : Prop :=
  ∀ (x : List Polarity) (s : State), ∃ (t : State) (rs : List ResponseWord),
    Host.Core.run Sys2Proof.core (x.length + 1)
      (s.present (.dmdStart :: x.map fun p => .dmdData p.sample.code)) = .next t ∧
    t.responses = s.responses ++ rs ∧
    t.block.dmd.mode = .active ∧
    t.block.dmd.half =
      (if x.length % 2 = 1 then x.getLast?.map Polarity.sample else none) ∧
    t.block.dmd.st =
      (if (rs.flatMap symbolsOf).count (bitCode true) % 2 = 0 then .plus else .minus)

/-! ## The reference functions (R72, R78, R91, R99, R106) -/

/-- R73: `ami_encode` keeps the length; its non-zero samples alternate from +1; a sample is 0 exactly for a 0
bit; the k-th `1` gets +1 for even k and -1 for odd k. -/
def Obligations.AmiEncodeAlternates : Prop :=
  ∀ b : List Bit,
    (amiEncode b).length = b.length ∧
    (∀ k : Nat, k < ((amiEncode b).filter fun v => v ≠ .zero).length →
      ((amiEncode b).filter fun v => v ≠ .zero)[k]? =
        some (if k % 2 = 0 then .plus else .minus)) ∧
    (∀ i : Nat, i < b.length → ((amiEncode b)[i]? = some .zero ↔ b[i]? = some false)) ∧
    (∀ i : Nat, b[i]? = some true →
      (amiEncode b)[i]? = some (if (b.take i).count true % 2 = 0 then .plus else .minus))

/-- R79 to R82: a mark keeps its AMI sample; the fourth zero of each group of a run ends a group that holds
the pattern the parity selects, marks plus substitutions before it; a zero in no complete group stays 0. -/
def Obligations.SubstitutedGroupsFollowParity : Prop :=
  ∀ (b : List Bit) (i : Nat),
    (b[i]? = some true → (hdb3Encode b).1[i]? = (amiEncode b)[i]?) ∧
    (b[i]? = some false → trailingZeros (b.take (i + 1)) % 4 = 0 →
      ((hdb3Encode b).1.drop (i - 3)).take 4 =
        (if ((b.take i).count true + (hdb3Encode (b.take i)).2.length) % 2 = 0
          then Pattern.even else Pattern.odd).samples) ∧
    (b[i]? = some false →
      (∀ j : Nat, i ≤ j → j ≤ i + 3 → j < b.length →
        ¬ (trailingZeros (b.take (j + 1)) % 4 = 0 ∧ j - i < trailingZeros (b.take (j + 1)))) →
      (hdb3Encode b).1[i]? = some .zero)

/-- R84, with the length of R83: the output of `hdb3_encode` has the input's length and never four
consecutive 0 samples. -/
def Obligations.Hdb3EncodeBoundsZeroRuns : Prop :=
  ∀ b : List Bit,
    (hdb3Encode b).1.length = b.length ∧
    ¬ [Sample.zero, .zero, .zero, .zero] <:+: (hdb3Encode b).1

/-- R94: `hdb3_decode` is no inverse of `hdb3_encode`: its own examples, a window for every ODD group and for
three plain zeros and a mark, and the length of the output. -/
def Obligations.Hdb3DecodeIsNoInverse : Prop :=
  (∀ s : List Sample, hdb3Decode (Pattern.odd.samples ++ s) = false :: hdb3Decode s) ∧
  hdb3Decode (hdb3Encode [true, false, false, false, false]).1 = [true, false] ∧
  (∀ s : List Sample,
    hdb3Decode (Pattern.even.samples ++ s) = [true, false, false, true] ++ hdb3Decode s) ∧
  hdb3Decode (hdb3Encode [false, false, false, false]).1 = [true, false, false, true] ∧
  (∀ (mark : Polarity) (s : List Sample),
    hdb3Decode ([.zero, .zero, .zero, mark.sample] ++ s) = false :: hdb3Decode s) ∧
  (hdb3Encode [true, false, false, false, true]).1 = [.plus, .zero, .zero, .zero, .minus] ∧
  hdb3Decode (hdb3Encode [true, false, false, false, true]).1 = [true, false] ∧
  (∀ s : List Sample, (hdb3Decode s).length ≤ s.length) ∧
  (∃ s : List Sample, (hdb3Decode s).length < s.length)

/-- R108: Differential Manchester decoding inverts encoding, for every bit stream. -/
def Obligations.DmRoundTripIsIdentity : Prop :=
  ∀ b : List Bit, dmDecode (dmEncode b) = b

/-! ## The assembler spelling (R60, R61) -/

/-- R60: the spelling of every command assembles to its word, an invalid-symbol DATA through `.word`; every
word can be placed with `.word`; and an operand outside the unit's alphabet is refused. -/
def Obligations.SpellingAssemblesToWord : Prop :=
  (∀ i : Instr, assembleLine (spelling i) = some [encode i]) ∧
  (∀ w : CommandWord, assembleLine (wordText w) = some [w]) ∧
  (∀ (u : UnitId) (t : List Char), operandCode u t = none →
    assembleTokens [mnemonicText u (.operation .data), t] = none) ∧
  (∀ (u : UnitId) (pay : SymbolCode) (t : List Char), operandCode u t = some pay →
    assembleTokens [mnemonicText u (.operation .data), t] = some [encode (dataOf u pay)] ∧
      validPayload u pay = true)

/-- R61: FEED is one DATA a symbol, PASS is START, FEED, END (with no symbol START, END); for an encoder a bit
string may be written run together; and the rule's own examples. -/
def Obligations.PseudoInstructionsExpand : Prop :=
  (∀ (u : UnitId) (x : List (List Char × SymbolCode)),
    (∀ p ∈ x, operandCode u p.1 = some p.2) →
      assembleTokens (mnemonicText u .feed :: x.map Prod.fst) =
        some (x.map fun p => encode (dataOf u p.2)) ∧
      assembleTokens (mnemonicText u .pass :: x.map Prod.fst) =
        some ((passOf u (x.map Prod.snd)).map encode)) ∧
  (∀ (u : UnitId) (bits : List Bit), u = .amie ∨ u = .hdb3e ∨ u = .dme → bits ≠ [] →
    assembleTokens [mnemonicText u .feed, bits.map fun b => if b then '1' else '0'] =
      some (bits.map fun b => encode (dataOf u (bitCode b)))) ∧
  (∀ (u : UnitId) (operands : List (List Char)) (ws : List CommandWord),
    assembleTokens (mnemonicText u .feed :: operands) = some ws →
      assembleTokens (mnemonicText u .pass :: operands) =
        some (encode (startOf u) :: ws ++ [encode (endOf u)])) ∧
  (∀ u : UnitId,
    assembleTokens [mnemonicText u .pass] = some [encode (startOf u), encode (endOf u)]) ∧
  assembleLine "HDB3E.PASS 10000".toList =
    some [0x20#8, 0x29#8, 0x28#8, 0x28#8, 0x28#8, 0x28#8, 0x30#8] ∧
  assembleLine "HDB3E.FEED 10000".toList = some [0x29#8, 0x28#8, 0x28#8, 0x28#8, 0x28#8]
end

