-- ==== Sys2Proof/Laws/Assembler.lean ====
section
/-! SUPPORT. The digits of a literal `0xNN` are read as they are written (30_encoding.md R60). -/

namespace Sys2Proof

/-- A digit that `hexChar` writes is read back as its value (R60). -/
theorem hexDigit_hexChar (n : Nat) (h : n < 16) : hexDigit (hexChar n) = some n := by
  revert n; decide

end Sys2Proof
end

