-- ==== Sys2Proof/Laws/State.lean ====
section
/-! SUPPORT. The small lemmas of the state: each field of each record update, true by unfolding once. -/

namespace Sys2Proof.Machine

/-! ## `respond` -/

@[simp] theorem respond_block (b : Block) (st : Status) (e : Emission) (s : State) :
    (respond b st e s).block = b := rfl

@[simp] theorem respond_input (b : Block) (st : Status) (e : Emission) (s : State) :
    (respond b st e s).input = s.input := rfl

@[simp] theorem respond_responses (b : Block) (st : Status) (e : Emission) (s : State) :
    (respond b st e s).responses = s.responses ++ [responseWord st e] := rfl

/-! ## The error handlers -/

@[simp] theorem illegalCommand_block (s : State) : (illegalCommand s).block = s.block := rfl

@[simp] theorem illegalCommand_input (s : State) : (illegalCommand s).input = s.input := rfl

@[simp] theorem illegalCommand_responses (s : State) :
    (illegalCommand s).responses = s.responses ++ [0x0004#16] := rfl

@[simp] theorem sequenceError_block (s : State) : (sequenceError s).block = s.block := rfl

@[simp] theorem sequenceError_input (s : State) : (sequenceError s).input = s.input := rfl

@[simp] theorem sequenceError_responses (s : State) :
    (sequenceError s).responses = s.responses ++ [0x0003#16] := rfl

@[simp] theorem invalidSymbol_block (u : UnitId) (s : State) :
    (invalidSymbol u s).block = s.block.setMode u .error := rfl

@[simp] theorem invalidSymbol_input (u : UnitId) (s : State) :
    (invalidSymbol u s).input = s.input := rfl

@[simp] theorem invalidSymbol_responses (u : UnitId) (s : State) :
    (invalidSymbol u s).responses = s.responses ++ [0x0001#16] := rfl

@[simp] theorem aborted_data_block (u : UnitId) (s : State) :
    (aborted u .data s).block = s.block := rfl

@[simp] theorem aborted_close_block (u : UnitId) (s : State) :
    (aborted u .close s).block = s.block.setMode u .idle := rfl

@[simp] theorem aborted_input (u : UnitId) (op : Operation) (s : State) :
    (aborted u op s).input = s.input := rfl

@[simp] theorem aborted_responses (u : UnitId) (op : Operation) (s : State) :
    (aborted u op s).responses = s.responses ++ [0x0005#16] := rfl

/-! ## START, reset and the input -/

@[simp] theorem startCommand_block (u : UnitId) (fresh : Block → Block) (s : State) :
    (startCommand u fresh s).block = (fresh s.block).setMode u .active := rfl

@[simp] theorem startCommand_input (u : UnitId) (fresh : Block → Block) (s : State) :
    (startCommand u fresh s).input = s.input := rfl

@[simp] theorem startCommand_responses (u : UnitId) (fresh : Block → Block) (s : State) :
    (startCommand u fresh s).responses = s.responses ++ [0x0000#16] := rfl

@[simp] theorem hardwareReset_block (s : State) : (hardwareReset s).block = .reset := rfl

@[simp] theorem hardwareReset_input (s : State) : (hardwareReset s).input = s.input := rfl

@[simp] theorem hardwareReset_responses (s : State) :
    (hardwareReset s).responses = s.responses := rfl

@[simp] theorem presentWords_block (ws : List CommandWord) (s : State) :
    (s.presentWords ws).block = s.block := rfl

@[simp] theorem presentWords_input (ws : List CommandWord) (s : State) :
    (s.presentWords ws).input = ws.map HostInput.command ++ s.input := rfl

@[simp] theorem presentWords_responses (ws : List CommandWord) (s : State) :
    (s.presentWords ws).responses = s.responses := rfl

/-! ## The MODE register by unit -/

@[simp] theorem mode_setMode (u : UnitId) (m : Mode) (b : Block) :
    (b.setMode u m).mode u = m := by
  cases u <;> rfl

theorem mode_setMode_other {u v : UnitId} (h : v ≠ u) (m : Mode) (b : Block) :
    (b.setMode u m).mode v = b.mode v := by
  cases u <;> cases v <;> first | rfl | exact absurd rfl h

theorem agreeOn_setMode_other {u v : UnitId} (h : v ≠ u) (m : Mode) (b : Block) :
    Block.agreeOn v (b.setMode u m) b = true := by
  cases u <;> cases v <;> first | exact absurd rfl h | simp [Block.agreeOn, Block.setMode]

@[simp] theorem setMode_setMode (u : UnitId) (m n : Mode) (b : Block) :
    (b.setMode u m).setMode u n = b.setMode u n := by
  cases u <;> rfl

@[simp] theorem setMode_mode (u : UnitId) (b : Block) : b.setMode u (b.mode u) = b := by
  cases u <;> rfl

@[simp] theorem agreeOn_refl (u : UnitId) (b : Block) : Block.agreeOn u b b = true := by
  cases u <;> simp [Block.agreeOn]

theorem agreeOn_mode {u : UnitId} {a b : Block} (h : Block.agreeOn u a b = true) :
    a.mode u = b.mode u := by
  cases u <;> simp_all [Block.agreeOn, Block.mode]

end Sys2Proof.Machine
end

