-- ==== Sys2Proof/Laws/Response.lean ====
section
/-! SUPPORT. What a host reads back from an assembled response word (30_encoding.md R59). -/

namespace Sys2Proof

/-- STATUS reads back, whatever was emitted. -/
@[simp] theorem statusOf_responseWord (st : Status) (e : Emission) :
    statusOf (responseWord st e) = st.code := by
  unfold statusOf responseWord
  exact BitVec.extractLsb'_append_eq_right ..

theorem responseWord_nil (st : Status) (r : Option Pattern) :
    responseWord st { out := [], record := r } =
      0#9 ++ recordPattern r ++ recordValid r ++ 0#2 ++ st.code := by
  cases st <;> rcases r with _ | _ | _ <;> rfl

/-- The output symbols and the record read back from a response of at most three symbols. -/
theorem read_responseWord (st : Status) (e : Emission) (h : e.out.length ≤ 3) :
    symbolsOf (responseWord st e) = e.out ∧ recordOf (responseWord st e) = e.record ∧
      countOf (responseWord st e) = e.out.length := by
  rcases e with ⟨out, rec⟩
  match out, h with
  | [], _ => cases st <;> rcases rec with _ | _ | _ <;> decide
  | [a], _ =>
    revert a; cases st <;> rcases rec with _ | _ | _ <;> decide
  | [a, b], _ =>
    revert a b; cases st <;> rcases rec with _ | _ | _ <;> decide
  | [a, b, c], _ =>
    revert a b c; cases st <;> rcases rec with _ | _ | _ <;> decide

end Sys2Proof
end

