-- ==== Sys2Proof/Laws/Ops.lean ====
section
/-! SUPPORT. What each shared operation can do, said once: the cases of the common parts of DATA and END
(40_dispatch.md R62, R64, R65), of taking the host's input, and of a run. -/

namespace Sys2Proof.Machine

/-- Everything the common part of DATA can do (R62, R64). -/
theorem dataCommand_cases {α : Type} (u : UnitId) (symbol : Option α)
    (rule : α → Block → Block × Emission) (s : State) :
    (s.block.mode u = .idle ∧ dataCommand u symbol rule s = sequenceError s) ∨
    (s.block.mode u = .error ∧ dataCommand u symbol rule s = aborted u .data s) ∨
    (s.block.mode u = .active ∧ symbol = none ∧
      dataCommand u symbol rule s = invalidSymbol u s) ∨
    (∃ x, s.block.mode u = .active ∧ symbol = some x ∧
      dataCommand u symbol rule s = respond (rule x s.block).1 .ok (rule x s.block).2 s) := by
  unfold dataCommand
  rcases h : s.block.mode u with _ | _ | _
  · exact .inl ⟨rfl, rfl⟩
  · rcases symbol with _ | x
    · exact .inr (.inr (.inl ⟨rfl, rfl, rfl⟩))
    · exact .inr (.inr (.inr ⟨x, rfl, rfl, rfl⟩))
  · exact .inr (.inl ⟨rfl, rfl⟩)

/-- Everything the common part of END can do (R62, R65). -/
theorem endCommand_cases (u : UnitId) (rule : Block → Block × Status × Emission) (s : State) :
    (s.block.mode u = .idle ∧ endCommand u rule s = sequenceError s) ∨
    (s.block.mode u = .error ∧ endCommand u rule s = aborted u .close s) ∨
    (s.block.mode u = .active ∧ endCommand u rule s =
      respond (rule (s.block.setMode u .idle)).1 (rule (s.block.setMode u .idle)).2.1
        (rule (s.block.setMode u .idle)).2.2 s) := by
  unfold endCommand
  rcases h : s.block.mode u with _ | _ | _
  · exact .inl ⟨rfl, rfl⟩
  · exact .inr (.inr ⟨rfl, rfl⟩)
  · exact .inr (.inl ⟨rfl, rfl⟩)

theorem dataCommand_idle {α : Type} {u : UnitId} {symbol : Option α}
    {rule : α → Block → Block × Emission} {s : State} (h : s.block.mode u = .idle) :
    dataCommand u symbol rule s = sequenceError s := by
  simp [dataCommand, h]

theorem dataCommand_error {α : Type} {u : UnitId} {symbol : Option α}
    {rule : α → Block → Block × Emission} {s : State} (h : s.block.mode u = .error) :
    dataCommand u symbol rule s = aborted u .data s := by
  simp [dataCommand, h]

theorem dataCommand_invalid {α : Type} {u : UnitId} {rule : α → Block → Block × Emission} {s : State}
    (h : s.block.mode u = .active) : dataCommand u none rule s = invalidSymbol u s := by
  simp [dataCommand, h]

theorem dataCommand_valid {α : Type} {u : UnitId} {rule : α → Block → Block × Emission} {s : State}
    (h : s.block.mode u = .active) (x : α) :
    dataCommand u (some x) rule s = respond (rule x s.block).1 .ok (rule x s.block).2 s := by
  simp [dataCommand, h]

theorem endCommand_idle {u : UnitId} {rule : Block → Block × Status × Emission} {s : State}
    (h : s.block.mode u = .idle) : endCommand u rule s = sequenceError s := by
  simp [endCommand, h]

theorem endCommand_error {u : UnitId} {rule : Block → Block × Status × Emission} {s : State}
    (h : s.block.mode u = .error) : endCommand u rule s = aborted u .close s := by
  simp [endCommand, h]

theorem endCommand_active {u : UnitId} {rule : Block → Block × Status × Emission} {s : State}
    (h : s.block.mode u = .active) :
    endCommand u rule s =
      respond (rule (s.block.setMode u .idle)).1 (rule (s.block.setMode u .idle)).2.1
        (rule (s.block.setMode u .idle)).2.2 s := by
  simp [endCommand, h]

/-- Taking the host's next input: nothing to take, or the first entry and the rest. -/
theorem takeInput_cases (s : State) :
    (s.input = [] ∧ takeInput s = none) ∨
    (∃ x rest, s.input = x :: rest ∧ takeInput s = some (x, { s with input := rest })) := by
  unfold takeInput
  rcases h : s.input with _ | ⟨x, rest⟩
  · exact .inl ⟨rfl, rfl⟩
  · exact .inr ⟨x, rest, rfl, rfl⟩

theorem takeInput_cons {s : State} {x : HostInput} {rest : List HostInput} (h : s.input = x :: rest) :
    takeInput s = some (x, { s with input := rest }) := by
  simp [takeInput, h]

/-- One more step at the front of a run, for any machine. -/
theorem core_run_succ (M : Host.Core) (k : Nat) {s t : M.State} (h : M.step s = .next t) :
    M.run (k + 1) s = M.run k t := by
  simp only [Host.Core.run, h]

/-- One more step at the front of a run. -/
theorem run_succ (k : Nat) {s t : State} (h : step s = .next t) :
    Host.Core.run Sys2Proof.core (k + 1) s = Host.Core.run Sys2Proof.core k t :=
  core_run_succ Sys2Proof.core k h

@[simp] theorem run_zero (s : State) : Host.Core.run Sys2Proof.core 0 s = .next s := rfl

end Sys2Proof.Machine
end

