-- ==== Sys2Proof/Laws/Units.lean ====
section
/-! SUPPORT. What each unit's rules can do, said once (41_ami_encoder.md to 45_dm_decoder.md): the register
lemmas, and the cases of the rules that branch. -/

namespace Sys2Proof

@[simp] theorem Polarity.neg_neg (p : Polarity) : p.neg.neg = p := by cases p <;> rfl

@[simp] theorem Parity.flip_flip (p : Parity) : p.flip.flip = p := by cases p <;> rfl

theorem Polarity.sample_ne_zero (p : Polarity) : p.sample ≠ .zero := by cases p <;> decide

theorem Polarity.sample_injective {p q : Polarity} (h : p.sample = q.sample) : p = q := by
  cases p <;> cases q <;> first | rfl | cases h

theorem Sample.code_ne_reserved (x : Sample) : x.code ≠ 2#2 := by cases x <;> decide

theorem bitCode_ne_reserved (b : Bit) : bitCode b ≠ 2#2 := by cases b <;> decide

theorem sampleSymbol_code (x : Sample) : sampleSymbol x.code = some x := by cases x <;> rfl

theorem bitSymbol_code (b : Bit) : bitSymbol (bitCode b) = some b := by cases b <;> rfl

theorem dmSymbol_code (p : Polarity) : dmSymbol p.sample.code = some p.sample := by cases p <;> rfl

theorem dmSymbol_ne_zero {pay : SymbolCode} {x : Sample} (h : dmSymbol pay = some x) : x ≠ .zero := by
  unfold dmSymbol at h
  split at h
  · cases h; decide
  · split at h
    · cases h; decide
    · cases h

end Sys2Proof

namespace Sys2Proof.Machine

/-! ## AMIE and DME -/

@[simp] theorem amie_data_mode (b : Bit) (u : Amie) : (u.data b).1.mode = u.mode := by
  cases b <;> rfl

@[simp] theorem amie_data_record (b : Bit) (u : Amie) : (u.data b).2.record = none := by
  cases b <;> rfl

@[simp] theorem amie_data_out_length (b : Bit) (u : Amie) : (u.data b).2.out.length = 1 := by
  cases b <;> rfl

@[simp] theorem dme_data_mode (b : Bit) (u : Dme) : (u.data b).1.mode = u.mode := by
  cases b <;> rfl

@[simp] theorem dme_data_record (b : Bit) (u : Dme) : (u.data b).2.record = none := by
  cases b <;> rfl

@[simp] theorem dme_data_out_length (b : Bit) (u : Dme) : (u.data b).2.out.length = 2 := by
  cases b <;> rfl

/-! ## HDB3E -/

/-- The delay line while it fills: the sample is held and nothing leaves (R88). -/
theorem shift_short (v : Sample) (u : Hdb3e) (r : Option Pattern) (h : u.dl.length < 3) :
    Hdb3e.shift v u r = ({ u with dl := u.dl ++ [v] }, { out := [], record := r }) := by
  unfold Hdb3e.shift
  have : ¬ (u.dl ++ [v]).length = Config.delayDepth + 1 := by simp [Config.delayDepth]; omega
  simp only [this, if_false]

/-- The full delay line: the oldest sample leaves (R88). -/
theorem shift_full (v x y z : Sample) (u : Hdb3e) (r : Option Pattern) (h : u.dl = [x, y, z]) :
    Hdb3e.shift v u r = ({ u with dl := [y, z, v] }, { out := [x.code], record := r }) := by
  unfold Hdb3e.shift
  simp [h]

@[simp] theorem shift_mode (v : Sample) (u : Hdb3e) (r : Option Pattern) :
    (Hdb3e.shift v u r).1.mode = u.mode := by
  unfold Hdb3e.shift; dsimp only; split <;> rfl

@[simp] theorem shift_pol (v : Sample) (u : Hdb3e) (r : Option Pattern) :
    (Hdb3e.shift v u r).1.pol = u.pol := by
  unfold Hdb3e.shift; dsimp only; split <;> rfl

@[simp] theorem shift_zrun (v : Sample) (u : Hdb3e) (r : Option Pattern) :
    (Hdb3e.shift v u r).1.zrun = u.zrun := by
  unfold Hdb3e.shift; dsimp only; split <;> rfl

@[simp] theorem shift_pp (v : Sample) (u : Hdb3e) (r : Option Pattern) :
    (Hdb3e.shift v u r).1.pp = u.pp := by
  unfold Hdb3e.shift; dsimp only; split <;> rfl

@[simp] theorem shift_record (v : Sample) (u : Hdb3e) (r : Option Pattern) :
    (Hdb3e.shift v u r).2.record = r := by
  unfold Hdb3e.shift; dsimp only; split <;> rfl

/-- Everything `HDB3E.DATA` can do (R88): a mark, a zero that does not complete a group, or a
substitution with the pattern the parity selects. -/
theorem hdb3e_data_cases (b : Bit) (u : Hdb3e) :
    (b = true ∧ u.data b =
      Hdb3e.shift u.pol.sample { u with pol := u.pol.neg, pp := u.pp.flip, zrun := 0#2 } none) ∨
    (b = false ∧ u.zrun ≠ 3#2 ∧ u.data b = Hdb3e.shift .zero { u with zrun := u.zrun + 1#2 } none) ∨
    (b = false ∧ u.zrun = 3#2 ∧ u.pp = .even ∧ u.data b =
      Hdb3e.shift .minus { u with dl := u.dl.set 0 .plus, zrun := 0#2, pp := .odd } (some .even)) ∨
    (b = false ∧ u.zrun = 3#2 ∧ u.pp = .odd ∧ u.data b =
      Hdb3e.shift .plus { u with zrun := 0#2, pp := .even } (some .odd)) := by
  cases b
  · by_cases hz : u.zrun = 3#2
    · have hlt : ¬ u.zrun.toNat + 1 < Config.substitutionThreshold := by simp [hz]
      rcases hp : u.pp with _ | _
      · exact .inr (.inr (.inl ⟨rfl, hz, rfl, by simp [Hdb3e.data, hlt, Hdb3e.substitute, hp, Parity.flip]⟩))
      · exact .inr (.inr (.inr ⟨rfl, hz, rfl, by simp [Hdb3e.data, hlt, Hdb3e.substitute, hp, Parity.flip]⟩))
    · have hlt : u.zrun.toNat + 1 < Config.substitutionThreshold := by
        have h4 := u.zrun.isLt
        have h3 : u.zrun.toNat ≠ 3 := fun h => hz (BitVec.eq_of_toNat_eq (by simpa using h))
        simp only [Config.substitutionThreshold]
        omega
      exact .inr (.inl ⟨rfl, hz, by simp [Hdb3e.data, hlt]⟩)
  · exact .inl ⟨rfl, by simp [Hdb3e.data]⟩

@[simp] theorem hdb3e_data_mode (b : Bit) (u : Hdb3e) : (u.data b).1.mode = u.mode := by
  rcases hdb3e_data_cases b u with ⟨_, h⟩ | ⟨_, _, h⟩ | ⟨_, _, _, h⟩ | ⟨_, _, _, h⟩ <;> simp [h]

@[simp] theorem hdb3e_flush_dl (u : Hdb3e) : u.flush.1.dl = [] := rfl

@[simp] theorem hdb3e_flush_out (u : Hdb3e) : u.flush.2.out = u.dl.map Sample.code := rfl

/-! ## HDB3D -/

/-- The buffer while it fills: the sample is held and nothing is decided (R96). -/
theorem hdb3d_data_short (x : Sample) (u : Hdb3d) (h : u.buf.length < 3) :
    u.data x = ({ u with buf := u.buf ++ [x] }, .none) := by
  unfold Hdb3d.data
  have : ¬ (u.buf ++ [x]).length = Config.windowLength := by simp [Config.windowLength]; omega
  simp only [this, if_false]

/-- A full window of three zeros and any fourth sample: one `0`, all four consumed (R96). -/
theorem hdb3d_data_window (x : Sample) (u : Hdb3d) (h : u.buf = [.zero, .zero, .zero]) :
    u.data x = ({ u with buf := [] }, .symbols [0#2]) := by
  simp [Hdb3d.data, h, Hdb3d.decide, bitCode]

/-- A full buffer that is no window: the sample under the cursor is decided on its own (R96). -/
theorem hdb3d_data_single (x a b c : Sample) (u : Hdb3d) (h : u.buf = [a, b, c])
    (hw : ¬ (a = .zero ∧ b = .zero ∧ c = .zero)) :
    u.data x = ({ u with buf := [b, c, x] }, .symbols [bitCode (sampleBit a)]) := by
  cases a <;> cases b <;> cases c <;> simp_all [Hdb3d.data, Hdb3d.decide]

/-! ## DMD -/

/-- The first sample of a pair is held (R110). -/
theorem dmd_data_first (x : Sample) (u : Dmd) (h : u.half = none) :
    u.data x = ({ u with half := some x }, .none) := by
  simp [Dmd.data, h]

/-- The second sample decides the pair, unexamined (R107, R110). -/
theorem dmd_data_second (x y : Sample) (u : Dmd) (h : u.half = some y) :
    u.data x =
      if y = u.st.sample then ({ u with half := none }, .symbols [bitCode false])
      else ({ u with half := none, st := u.st.neg }, .symbols [bitCode true]) := by
  simp [Dmd.data, h]

@[simp] theorem dmd_data_mode (x : Sample) (u : Dmd) : (u.data x).1.mode = u.mode := by
  rcases h : u.half with _ | y
  · rw [dmd_data_first x u h]
  · rw [dmd_data_second x y u h]; split <;> rfl

theorem dmd_finish_none (u : Dmd) (h : u.half = none) : u.finish = (u, .ok) := by
  simp [Dmd.finish, h]

theorem dmd_finish_some (u : Dmd) (y : Sample) (h : u.half = some y) :
    u.finish = ({ u with half := none }, .malformedSignal) := by
  simp [Dmd.finish, h]

end Sys2Proof.Machine
end

