-- ==== Sys2Proof/Laws/Invariant.lean ====
section
/-! SUPPORT. The unit rules keep the invariant of their unit (10_state.md R33), one lemma for each rule. -/

namespace Sys2Proof.Machine

/-- HDB3E's invariant, unfolded: at most three samples, and in an open or aborted pass the youngest ZRUN of
them are there and 0 (R33). -/
theorem hdb3e_inv_iff (u : Hdb3e) :
    u.inv = true ↔ u.dl.length ≤ 3 ∧
      (u.mode = .idle ∨ (u.zrun.toNat ≤ u.dl.length ∧
        ∀ x ∈ u.dl.reverse.take u.zrun.toNat, x = .zero)) := by
  simp [Hdb3e.inv]

/-- Appending a sample to a line keeps the invariant where the new ZRUN says the sample is a zero that follows
the zeros counted so far (R88). -/
theorem shift_inv (v : Sample) (u : Hdb3e) (r : Option Pattern) (h : u.dl.length ≤ 3)
    (hz : u.zrun.toNat ≤ (u.dl ++ [v]).length ∧ u.zrun.toNat ≤ 3 ∧
      ∀ x ∈ (u.dl ++ [v]).reverse.take u.zrun.toNat, x = .zero) :
    (Hdb3e.shift v u r).1.inv = true := by
  rw [hdb3e_inv_iff]
  match hl : u.dl, h with
  | [], _ => rw [shift_short v u r (by simp [hl])]; simp_all; exact .inr hz.2.2
  | [a], _ => rw [shift_short v u r (by simp [hl])]; simp_all; exact .inr hz.2.2
  | [a, b], _ => rw [shift_short v u r (by simp [hl])]; simp_all; exact .inr hz.2
  | [a, b, c], _ =>
    rw [shift_full v a b c u r hl]
    obtain ⟨_, h3, hall⟩ := hz
    refine ⟨by simp, .inr ⟨by simpa using h3, fun x hx => hall x ?_⟩⟩
    have happ : (u.dl ++ [v]).reverse = [v, c, b] ++ [a] := by simp [hl]
    rw [happ, List.take_append_of_le_length (by simpa using h3)]
    simpa using hx

/-- `HDB3E.DATA` keeps HDB3E's invariant in a pass (R33, R88). -/
theorem hdb3e_data_inv (b : Bit) (u : Hdb3e) (h : u.inv = true) (hm : u.mode ≠ .idle) :
    (u.data b).1.inv = true := by
  rw [hdb3e_inv_iff] at h
  obtain ⟨hlen, hidle | ⟨hle, hall⟩⟩ := h
  · exact absurd hidle hm
  · rcases hdb3e_data_cases b u with ⟨_, hd⟩ | ⟨_, hz, hd⟩ | ⟨_, _, _, hd⟩ | ⟨_, _, _, hd⟩ <;> rw [hd]
    · exact shift_inv _ _ _ hlen (by simp)
    · have h4 := u.zrun.isLt
      have h3 : u.zrun.toNat ≠ 3 := fun h => hz (BitVec.eq_of_toNat_eq (by simpa using h))
      have hsucc : (u.zrun + 1#2).toNat = u.zrun.toNat + 1 := by
        rw [BitVec.toNat_add, show (1#2).toNat = 1 from rfl, Nat.mod_eq_of_lt]
        omega
      refine shift_inv _ _ _ hlen ?_
      simp only [hsucc]
      refine ⟨by simpa using hle, by omega, fun x hx => ?_⟩
      rw [List.reverse_append] at hx
      rcases List.mem_cons.mp (by simpa using hx) with rfl | hx'
      · rfl
      · exact hall x hx'
    · exact shift_inv _ _ _ (by simpa using hlen) (by simp)
    · exact shift_inv _ _ _ hlen (by simp)

/-- `HDB3E.START` establishes HDB3E's invariant in every mode (R87). -/
theorem hdb3e_fresh_inv (u : Hdb3e) (m : Mode) : ({ u.fresh with mode := m } : Hdb3e).inv = true := by
  rw [hdb3e_inv_iff]; simp [Hdb3e.fresh]

/-- A unit with HDB3E's invariant keeps it when a pass is aborted or closed with nothing else written
(R116, R117). -/
theorem hdb3e_inv_of_closed (u : Hdb3e) (h : u.inv = true) :
    ({ u with mode := .idle } : Hdb3e).inv = true := by
  rw [hdb3e_inv_iff] at h ⊢; simp [h.1]

/-- `HDB3D.DATA` keeps BUFN ≤ 3 (R33, R96). -/
theorem hdb3d_data_inv (x : Sample) (u : Hdb3d) (h : u.inv = true) : (u.data x).1.inv = true := by
  have h3 : u.buf.length ≤ 3 := by have := h; simp [Hdb3d.inv] at this; omega
  match hl : u.buf, h3 with
  | [], _ => rw [hdb3d_data_short x u (by simp [hl])]; simp [Hdb3d.inv, hl]
  | [a], _ => rw [hdb3d_data_short x u (by simp [hl])]; simp [Hdb3d.inv, hl]
  | [a, b], _ => rw [hdb3d_data_short x u (by simp [hl])]; simp [Hdb3d.inv, hl]
  | [a, b, c], _ =>
    by_cases hw : a = .zero ∧ b = .zero ∧ c = .zero
    · obtain ⟨rfl, rfl, rfl⟩ := hw
      rw [hdb3d_data_window x u hl]; simp [Hdb3d.inv]
    · rw [hdb3d_data_single x a b c u hl hw]; simp [Hdb3d.inv]

/-- `DMD.DATA` of an accepted sample never holds the sample 0 (R54, R110). -/
theorem dmd_data_inv (x : Sample) (u : Dmd) (hx : x ≠ .zero) : (u.data x).1.inv = true := by
  rcases h : u.half with _ | y
  · rw [dmd_data_first x u h]; simpa [Dmd.inv] using hx
  · rw [dmd_data_second x y u h]; split <;> simp [Dmd.inv]

/-- `DMD.END` leaves no half pair (R111). -/
theorem dmd_finish_half (u : Dmd) : u.finish.1.half = none := by
  rcases h : u.half with _ | y
  · rw [dmd_finish_none u h]; exact h
  · rw [dmd_finish_some u y h]

end Sys2Proof.Machine
end

