-- ==== Sys2Proof/Laws/PerInstr.lean ====
section
/-! SUPPORT. The family of per-instruction lemmas: the word a command is encoded in has the fields the
command is written in, and they pass the four checks of 30_encoding.md R55 (R48, R57). -/

namespace Sys2Proof.Laws

/-- The encoding of `i` has the fields of `i`, and they are well formed (R48, R55, R57). -/
def EncodeFields.Statement (i : Instr) : Prop := fieldsOf (encode i) = i.fields ∧ i.wf = true

theorem EncodeFields.amieStart : EncodeFields.Statement .amieStart := by
  unfold EncodeFields.Statement; decide

theorem EncodeFields.amieData (pay : SymbolCode) : EncodeFields.Statement (.amieData pay) := by
  unfold EncodeFields.Statement; revert pay; decide

theorem EncodeFields.amieEnd : EncodeFields.Statement .amieEnd := by
  unfold EncodeFields.Statement; decide

theorem EncodeFields.hdb3eStart : EncodeFields.Statement .hdb3eStart := by
  unfold EncodeFields.Statement; decide

theorem EncodeFields.hdb3eData (pay : SymbolCode) : EncodeFields.Statement (.hdb3eData pay) := by
  unfold EncodeFields.Statement; revert pay; decide

theorem EncodeFields.hdb3eEnd : EncodeFields.Statement .hdb3eEnd := by
  unfold EncodeFields.Statement; decide

theorem EncodeFields.hdb3dStart : EncodeFields.Statement .hdb3dStart := by
  unfold EncodeFields.Statement; decide

theorem EncodeFields.hdb3dData (pay : SymbolCode) : EncodeFields.Statement (.hdb3dData pay) := by
  unfold EncodeFields.Statement; revert pay; decide

theorem EncodeFields.hdb3dEnd : EncodeFields.Statement .hdb3dEnd := by
  unfold EncodeFields.Statement; decide

theorem EncodeFields.dmeStart : EncodeFields.Statement .dmeStart := by
  unfold EncodeFields.Statement; decide

theorem EncodeFields.dmeData (pay : SymbolCode) : EncodeFields.Statement (.dmeData pay) := by
  unfold EncodeFields.Statement; revert pay; decide

theorem EncodeFields.dmeEnd : EncodeFields.Statement .dmeEnd := by
  unfold EncodeFields.Statement; decide

theorem EncodeFields.dmdStart : EncodeFields.Statement .dmdStart := by
  unfold EncodeFields.Statement; decide

theorem EncodeFields.dmdData (pay : SymbolCode) : EncodeFields.Statement (.dmdData pay) := by
  unfold EncodeFields.Statement; revert pay; decide

theorem EncodeFields.dmdEnd : EncodeFields.Statement .dmdEnd := by
  unfold EncodeFields.Statement; decide

end Sys2Proof.Laws
end

