-- ==== Sys2Proof/Tests/Slice0.lean ====
section
/-! SUPPORT. Tests. Expected results come from the spec: words written out from 30_encoding.md R48, R50, R51 and
R57, responses and registers from the single-command vectors of 95_test_vectors.md section 3 and the programs
of section 4, reference outputs from section 2. The last part shows, for each statement with hypotheses, a
concrete state and operands that meet them. -/

namespace Sys2Proof.Tests

open Sys2Proof.Machine

/-- A state with block `b`, in which the host presents nothing and nothing has been answered. -/
def quiet (b : Block) : State := { block := b, input := [], responses := [] }

/-- The block and the responses after an outcome. -/
def outcome (o : Host.Outcome State Fault Refusal) : Option (Block × List ResponseWord) :=
  match o with
  | .next t => some (t.block, t.responses)
  | .fault _ => none
  | .refused _ => none

/-- The block and the responses after one command to block `b`. -/
def after (i : Instr) (b : Block) : Option (Block × List ResponseWord) := outcome (exec i (quiet b))

/-- The reset block with AMIE's registers. -/
def amieBlock (u : Amie) : Block := { Block.reset with amie := u }

/-- The reset block with HDB3E's registers. -/
def hdb3eBlock (u : Hdb3e) : Block := { Block.reset with hdb3e := u }

/-- The reset block with HDB3D's registers. -/
def hdb3dBlock (u : Hdb3d) : Block := { Block.reset with hdb3d := u }

/-- The reset block with DME's registers. -/
def dmeBlock (u : Dme) : Block := { Block.reset with dme := u }

/-- The reset block with DMD's registers. -/
def dmdBlock (u : Dmd) : Block := { Block.reset with dmd := u }

/-! ## Well-formedness: one ill-formed term for each check (R55) -/

theorem test_wf_refuses_reserved_unit :
    Cmd8.wf { unit := 5#3, op := 0#2, rsv := 0#1, pay := 0#2 } = false := by decide

theorem test_wf_refuses_reserved_operation :
    Cmd8.wf { unit := 0#3, op := 3#2, rsv := 0#1, pay := 0#2 } = false := by decide

theorem test_wf_refuses_reserved_bit :
    Cmd8.wf { unit := 4#3, op := 1#2, rsv := 1#1, pay := 1#2 } = false := by decide

theorem test_wf_refuses_payload_of_start :
    Cmd8.wf { unit := 1#3, op := 0#2, rsv := 0#1, pay := 1#2 } = false := by decide

theorem test_wf_refuses_payload_of_end :
    Cmd8.wf { unit := 3#3, op := 2#2, rsv := 0#1, pay := 2#2 } = false := by decide

theorem test_wf_accepts_any_payload_of_data :
    Cmd8.wf { unit := 4#3, op := 1#2, rsv := 0#1, pay := 2#2 } = true := by decide

/-! ## Decoding: each command's word written out as UNIT, OP, RSV, PAY (R48, R50, R51) -/

theorem test_decode_amie_start : decode 0b000_00_0_00#8 = .ok .amieStart := by rfl

theorem test_decode_amie_data : decode 0b000_01_0_11#8 = .ok (.amieData 0b11#2) := by rfl

theorem test_decode_amie_end : decode 0b000_10_0_00#8 = .ok .amieEnd := by rfl

theorem test_decode_hdb3e_start : decode 0b001_00_0_00#8 = .ok .hdb3eStart := by rfl

theorem test_decode_hdb3e_data : decode 0b001_01_0_11#8 = .ok (.hdb3eData 0b11#2) := by rfl

theorem test_decode_hdb3e_end : decode 0b001_10_0_00#8 = .ok .hdb3eEnd := by rfl

theorem test_decode_hdb3d_start : decode 0b010_00_0_00#8 = .ok .hdb3dStart := by rfl

theorem test_decode_hdb3d_data : decode 0b010_01_0_11#8 = .ok (.hdb3dData 0b11#2) := by rfl

theorem test_decode_hdb3d_end : decode 0b010_10_0_00#8 = .ok .hdb3dEnd := by rfl

theorem test_decode_dme_start : decode 0b011_00_0_00#8 = .ok .dmeStart := by rfl

theorem test_decode_dme_data : decode 0b011_01_0_11#8 = .ok (.dmeData 0b11#2) := by rfl

theorem test_decode_dme_end : decode 0b011_10_0_00#8 = .ok .dmeEnd := by rfl

theorem test_decode_dmd_start : decode 0b100_00_0_00#8 = .ok .dmdStart := by rfl

theorem test_decode_dmd_data : decode 0b100_01_0_11#8 = .ok (.dmdData 0b11#2) := by rfl

theorem test_decode_dmd_end : decode 0b100_10_0_00#8 = .ok .dmdEnd := by rfl

/-- 95_test_vectors.md section 3.6. -/
theorem test_decode_illegal_words :
    [0xA0#8, 0xC0#8, 0xE0#8, 0xBF#8, 0xFF#8, 0x18#8, 0x39#8, 0x5B#8, 0x78#8, 0x98#8, 0x04#8, 0x2C#8,
      0x4D#8, 0x6F#8, 0x84#8, 0x01#8, 0x21#8, 0x43#8, 0x12#8, 0x32#8, 0x91#8].all isIllegal = true := by
  decide

theorem test_decode_table_word : decodeTableWord 8 0x4B = some (.hdb3dData 3#2) := by rfl

theorem test_fetch_word_runs_first :
    outcome (step (State.reset.withFetchWord 8 0x00)) =
      some (amieBlock { mode := .active, pol := .plus }, [0x0000#16]) := by decide

/-! ## One step: the port -/

theorem test_illegal_word_is_answered :
    outcome (step { State.reset with input := [.command 0x24#8] }) =
      some (Block.reset, [0x0004#16]) := by decide

theorem test_reset_input_has_no_response :
    outcome (step
      { block := amieBlock { mode := .error, pol := .minus }, input := [.reset],
        responses := [0x0108#16] }) = some (Block.reset, [0x0108#16]) := by decide

/-! ## One command each (95_test_vectors.md section 3) -/

theorem test_amie_start_restarts :
    after .amieStart (amieBlock { mode := .active, pol := .minus }) =
      some (amieBlock { mode := .active, pol := .plus }, [0x0000#16]) := by
  decide

theorem test_amie_start_from_error :
    after .amieStart (amieBlock { mode := .error, pol := .plus }) =
      some (amieBlock { mode := .active, pol := .plus }, [0x0000#16]) := by
  decide

theorem test_amie_data_one_minus :
    after (.amieData 1#2) (amieBlock { mode := .active, pol := .minus }) =
      some (amieBlock { mode := .active, pol := .plus }, [0x0308#16]) := by
  decide

theorem test_amie_data_invalid :
    after (.amieData 3#2) (amieBlock { mode := .active, pol := .plus }) =
      some (amieBlock { mode := .error, pol := .plus }, [0x0001#16]) := by
  decide

theorem test_amie_end_keeps_pol :
    after .amieEnd (amieBlock { mode := .active, pol := .minus }) =
      some (amieBlock { mode := .idle, pol := .minus }, [0x0000#16]) := by
  decide

theorem test_amie_end_in_error :
    after .amieEnd (amieBlock { mode := .error, pol := .plus }) =
      some (amieBlock { mode := .idle, pol := .plus }, [0x0005#16]) := by
  decide

theorem test_hdb3e_start_discards :
    after .hdb3eStart (hdb3eBlock { mode := .active, pol := .plus, zrun := 2#2, pp := .even, dl := [.zero, .zero] }) =
      some (hdb3eBlock { mode := .active, pol := .plus, zrun := 0#2, pp := .even, dl := [] }, [0x0000#16]) := by
  decide

theorem test_hdb3e_start_from_reset :
    after .hdb3eStart (hdb3eBlock { mode := .idle, pol := .plus, zrun := 0#2, pp := .even, dl := [] }) =
      some (hdb3eBlock { mode := .active, pol := .plus, zrun := 0#2, pp := .even, dl := [] }, [0x0000#16]) := by
  decide

theorem test_hdb3e_data_even_substitution :
    after (.hdb3eData 0#2) (hdb3eBlock { mode := .active, pol := .plus, zrun := 3#2, pp := .even, dl := [.zero, .zero, .zero] }) =
      some (hdb3eBlock { mode := .active, pol := .plus, zrun := 0#2, pp := .odd, dl := [.zero, .zero, .minus] }, [0x0128#16]) := by
  decide

theorem test_hdb3e_data_odd_substitution :
    after (.hdb3eData 0#2) (hdb3eBlock { mode := .active, pol := .minus, zrun := 3#2, pp := .odd, dl := [.zero, .zero, .zero] }) =
      some (hdb3eBlock { mode := .active, pol := .minus, zrun := 0#2, pp := .even, dl := [.zero, .zero, .plus] }, [0x0068#16]) := by
  decide

theorem test_hdb3e_end_short_line :
    after .hdb3eEnd (hdb3eBlock { mode := .active, pol := .minus, zrun := 1#2, pp := .odd, dl := [.plus, .zero] }) =
      some (hdb3eBlock { mode := .idle, pol := .minus, zrun := 1#2, pp := .odd, dl := [] }, [0x0110#16]) := by
  decide

theorem test_hdb3e_end_aborted_keeps_line :
    after .hdb3eEnd (hdb3eBlock { mode := .error, pol := .plus, zrun := 1#2, pp := .even, dl := [.zero] }) =
      some (hdb3eBlock { mode := .idle, pol := .plus, zrun := 1#2, pp := .even, dl := [.zero] }, [0x0005#16]) := by
  decide

theorem test_hdb3d_start_discards :
    after .hdb3dStart (hdb3dBlock { mode := .active, buf := [.plus] }) =
      some (hdb3dBlock { mode := .active, buf := [] }, [0x0000#16]) := by
  decide

theorem test_hdb3d_start_from_reset :
    after .hdb3dStart (hdb3dBlock { mode := .idle, buf := [] }) =
      some (hdb3dBlock { mode := .active, buf := [] }, [0x0000#16]) := by
  decide

theorem test_hdb3d_data_window :
    after (.hdb3dData 3#2) (hdb3dBlock { mode := .active, buf := [.zero, .zero, .zero] }) =
      some (hdb3dBlock { mode := .active, buf := [] }, [0x0008#16]) := by
  decide

theorem test_hdb3d_data_isolated_zero :
    after (.hdb3dData 0#2) (hdb3dBlock { mode := .active, buf := [.zero, .minus, .zero] }) =
      some (hdb3dBlock { mode := .active, buf := [.minus, .zero, .zero] }, [0x0008#16]) := by
  decide

theorem test_hdb3d_end_three :
    after .hdb3dEnd (hdb3dBlock { mode := .active, buf := [.zero, .zero, .minus] }) =
      some (hdb3dBlock { mode := .idle, buf := [] }, [0x1018#16]) := by
  decide

theorem test_hdb3d_end_empty :
    after .hdb3dEnd (hdb3dBlock { mode := .active, buf := [] }) =
      some (hdb3dBlock { mode := .idle, buf := [] }, [0x0000#16]) := by
  decide

theorem test_dme_start_from_reset :
    after .dmeStart (dmeBlock { mode := .idle, st := .plus }) =
      some (dmeBlock { mode := .active, st := .plus }, [0x0000#16]) := by
  decide

theorem test_dme_start_mid_pass :
    after .dmeStart (dmeBlock { mode := .active, st := .minus }) =
      some (dmeBlock { mode := .active, st := .plus }, [0x0000#16]) := by
  decide

theorem test_dme_data_one_plus :
    after (.dmeData 1#2) (dmeBlock { mode := .active, st := .plus }) =
      some (dmeBlock { mode := .active, st := .minus }, [0x0710#16]) := by
  decide

theorem test_dme_data_zero_plus :
    after (.dmeData 0#2) (dmeBlock { mode := .active, st := .plus }) =
      some (dmeBlock { mode := .active, st := .plus }, [0x0D10#16]) := by
  decide

theorem test_dme_end_keeps_state :
    after .dmeEnd (dmeBlock { mode := .active, st := .minus }) =
      some (dmeBlock { mode := .idle, st := .minus }, [0x0000#16]) := by
  decide

theorem test_dme_end_idle :
    after .dmeEnd (dmeBlock { mode := .idle, st := .plus }) =
      some (dmeBlock { mode := .idle, st := .plus }, [0x0003#16]) := by
  decide

theorem test_dmd_start_discards_half :
    after .dmdStart (dmdBlock { mode := .active, st := .plus, half := some .plus }) =
      some (dmdBlock { mode := .active, st := .plus, half := none }, [0x0000#16]) := by
  decide

theorem test_dmd_start_from_reset :
    after .dmdStart (dmdBlock { mode := .idle, st := .plus, half := none }) =
      some (dmdBlock { mode := .active, st := .plus, half := none }, [0x0000#16]) := by
  decide

theorem test_dmd_data_second_differs :
    after (.dmdData 3#2) (dmdBlock { mode := .active, st := .plus, half := some .minus }) =
      some (dmdBlock { mode := .active, st := .minus, half := none }, [0x0108#16]) := by
  decide

theorem test_dmd_data_zero_invalid :
    after (.dmdData 0#2) (dmdBlock { mode := .active, st := .plus, half := none }) =
      some (dmdBlock { mode := .error, st := .plus, half := none }, [0x0001#16]) := by
  decide

theorem test_dmd_end_odd_length :
    after .dmdEnd (dmdBlock { mode := .active, st := .plus, half := some .plus }) =
      some (dmdBlock { mode := .idle, st := .plus, half := none }, [0x0002#16]) := by
  decide

theorem test_dmd_end_even_length :
    after .dmdEnd (dmdBlock { mode := .active, st := .plus, half := none }) =
      some (dmdBlock { mode := .idle, st := .plus, half := none }, [0x0000#16]) := by
  decide

/-! ## Reference functions (95_test_vectors.md sections 1 and 2) and register codes -/

theorem test_ami_encode : amiEncode [true, true, false, true] = [.plus, .minus, .zero, .plus] := by
  decide

theorem test_hdb3_encode_two_groups :
    hdb3Encode [true, false, false, false, false, false, false, false, false] =
      ([.plus, .zero, .zero, .zero, .plus, .plus, .zero, .zero, .minus], [.odd, .even]) := by
  decide

theorem test_hdb3_decode :
    hdb3Decode [.plus, .zero, .zero, .minus, .plus, .zero, .zero, .zero, .plus, .minus] =
      [true, false, false, true, true, false, true] := by
  decide

theorem test_dm_encode_corrected_example :
    dmEncode [true, false, true, true] =
      [.minus, .plus, .minus, .plus, .plus, .minus, .minus, .plus] := by
  decide

theorem test_dm_decode_of_printed_signal :
    dmDecode [.minus, .plus, .minus, .plus, .minus, .plus, .minus, .plus] =
      [true, false, false, false] := by
  decide

theorem test_register_codes :
    Mode.idle.code = 0b00#2 ∧ Mode.active.code = 0b01#2 ∧ Mode.error.code = 0b10#2 ∧
      Polarity.plus.code = 0#1 ∧ Polarity.minus.code = 1#1 ∧ Parity.even.code = 0#1 ∧
      Parity.odd.code = 1#1 := by
  decide

/-! ## The assembler (R60, R61) -/

theorem test_assemble_comment_and_operand :
    assembleLine "HDB3D.DATA 1 ; same as +1".toList = some [0x49#8] := by
  decide

theorem test_assemble_word_places_illegal_word : assembleLine ".word 0x9F".toList = some [0x9F#8] := by
  decide

theorem test_assemble_refuses_operand : assembleLine "DMD.DATA 0".toList = none := by
  decide

/-! ## Witnesses: states and operands that meet the hypotheses of the statements -/

/-- AMIE active at +1, used by the witnesses below. -/
def amieActive : State := quiet (amieBlock { mode := .active, pol := .plus })

/-- A state in which the host presents the word `w`. -/
def presenting (w : CommandWord) : State := { State.reset with input := [.command w] }

theorem test_witness_DecodeAndEncodeAgree :
    Instr.wf (.amieData 2#2) = true ∧ decode 0x0A#8 = .ok (.amieData 2#2) := ⟨rfl, rfl⟩

theorem test_witness_DecodeTestsTheFields :
    decode 0x9F#8 = .error .reservedOperation ∧ decode 0x90#8 = .ok .dmdEnd ∧
      (presenting 0xA0#8).input = .command 0xA0#8 :: [] ∧ isIllegal 0xA0#8 = true ∧
      State.reset.block.mode .dmd ≠ .active :=
  ⟨rfl, rfl, rfl, rfl, by decide⟩

theorem test_witness_CommandMapOfThirtyWords :
    isIllegal 0x01#8 = true ∧ isIllegal 0x91#8 = true ∧ isIllegal 0x90#8 = false := by
  decide

/-- The bounds of the four kinds of reserved words. -/
theorem test_witness_ReservedWordsAreIllegal :
    [0xA0#8, 0xFF#8, 0x18#8, 0x9F#8, 0x04#8, 0x97#8, 0x01#8, 0x93#8].all
      (fun w => isIllegal w && ((presenting w).input = [.command w])) = true := by
  decide

theorem test_witness_ResponseFieldsStandWhereR59Says :
    ([] : List SymbolCode).length ≤ 3 ∧ [1#2, 3#2, 0#2].length ≤ 3 := by
  decide

theorem test_witness_StepRunsDecodedCommand :
    (presenting 0x09#8).input = .command 0x09#8 :: [] ∧ decode 0x09#8 = .ok (.amieData 1#2) ∧
      Instr.wf (.amieData 1#2) = true := ⟨rfl, rfl, rfl⟩

theorem test_witness_IllegalWordChangesNoRegister :
    (presenting 0x04#8).input = .command 0x04#8 :: [] ∧ decode 0x04#8 = .error .reservedBit :=
  ⟨rfl, rfl⟩

theorem test_witness_ResetInputRestoresEveryRegister :
    ({ amieActive with input := [.reset] } : State).input = .reset :: [] := rfl

/-- Two IDLE blocks that differ in the unit's datapath alone. -/
theorem test_witness_ResetValuesAreUnobservable :
    State.reset.block.mode .amie = .idle ∧
      (amieBlock { mode := .idle, pol := .minus }).mode (Instr.amieStart).unit = .idle ∧
      (∀ v : UnitId, v ≠ .amie →
        Block.agreeOn v State.reset.block (amieBlock { mode := .idle, pol := .minus }) = true) ∧
      Instr.operation .amieStart = .start ∧ Instr.operation .amieEnd ≠ .start := by
  refine ⟨rfl, rfl, ?_, rfl, by decide⟩
  intro v hv; cases v <;> first | rfl | exact absurd rfl hv

theorem test_witness_IdlePortLeavesMachineUnchanged : State.reset.input = [] := rfl

theorem test_witness_EveryStepCompletes : (presenting 0x00#8).input = .command 0x00#8 :: [] := rfl

/-- AMIE in each mode and with each polarity, for AmieDataEmitsAlternatingMark and AmieEndClosesPass. -/
theorem test_witness_Amie :
    amieActive.block.amie.mode = .active ∧ amieActive.block.amie.pol = .plus ∧
      (amieBlock { mode := .active, pol := .minus }).amie.mode = .active ∧
      (amieBlock { mode := .active, pol := .minus }).amie.pol = .minus ∧
      State.reset.block.amie.mode = .idle ∧
      (amieBlock { mode := .error, pol := .plus }).amie.mode = .error ∧
      ((2#2 : SymbolCode) = 2#2 ∨ (2#2 : SymbolCode) = 3#2) := by
  decide

/-- HDB3E with a line of 0 and of 2 samples, a full line, ZRUN at 2 and 3, both parities, and each mode, for
Hdb3eDataSubstitutesFourthZero and Hdb3eEndFlushesDelayLine. -/
theorem test_witness_Hdb3e :
    (∀ u ∈ [({ mode := .active, pol := .plus, zrun := 0#2, pp := .even, dl := [] } : Hdb3e),
        { mode := .active, pol := .plus, zrun := 2#2, pp := .even, dl := [.zero, .zero] }],
      u.mode = .active ∧ u.dl.length < 3 ∧ u.zrun ≠ 3#2) ∧
    (∀ u ∈ [({ mode := .active, pol := .plus, zrun := 3#2, pp := .even, dl := [.zero, .zero, .zero] }
          : Hdb3e),
        { mode := .active, pol := .minus, zrun := 3#2, pp := .odd, dl := [.zero, .zero, .zero] }],
      u.inv = true ∧ u.mode ≠ .idle ∧ u.mode = .active ∧ u.zrun = 3#2 ∧
        u.dl = [.zero, .zero, .zero]) ∧
    Hdb3e.reset.mode = .idle ∧
    ({ mode := .error, pol := .plus, zrun := 0#2, pp := .even, dl := [] } : Hdb3e).mode = .error ∧
    ([] : List Sample) = [] ∧ [Sample.plus] = [.plus] ∧ [Sample.plus, .zero] = [.plus, .zero] := by
  decide

/-- HDB3D with a line of 0 and of 2 samples, a window, a full line that is no window, and each mode, for
Hdb3dDataDecidesFourthSample and Hdb3dEndDecodesRemainder. -/
theorem test_witness_Hdb3d :
    (∀ u ∈ [({ mode := .active, buf := [] } : Hdb3d), { mode := .active, buf := [.zero, .zero] }],
      u.mode = .active ∧ u.buf.length < 3) ∧
    ({ mode := .active, buf := [.zero, .zero, .zero] } : Hdb3d).buf = [.zero, .zero, .zero] ∧
    Sample.plus ≠ .zero ∧ Sample.minus ≠ .zero ∧
    ({ mode := .active, buf := [.zero, .zero, .plus] } : Hdb3d).buf = [.zero, .zero, .plus] ∧
    Hdb3d.reset.mode = .idle ∧ ({ mode := .error, buf := [] } : Hdb3d).mode = .error := by
  decide

/-- DME in each mode, for DmeDataEmitsPair and DmeEndClosesPass. -/
theorem test_witness_Dme :
    ({ mode := .active, st := .plus } : Dme).mode = .active ∧ Dme.reset.mode = .idle ∧
      ({ mode := .error, st := .minus } : Dme).mode = .error := by
  decide

/-- DMD with and without a half pair, the half equal to ST and not, in each mode, for
DmdDataComparesHeldSample and DmdEndFlagsOddLength. -/
theorem test_witness_Dmd :
    ({ mode := .active, st := .plus, half := none } : Dmd).half = none ∧
      ({ mode := .active, st := .plus, half := some .plus } : Dmd).half = some .plus ∧
      Sample.plus = (if Polarity.plus = .plus then .plus else .minus) ∧
      Sample.minus ≠ (if Polarity.plus = .plus then .plus else .minus) ∧
      Dmd.reset.mode = .idle ∧ ({ mode := .error, st := .plus, half := none } : Dmd).mode = .error := by
  decide

/-- For StartRestartsInEveryMode. -/
theorem test_witness_StartRestartsInEveryMode : UnitId.hdb3e ≠ UnitId.amie := by decide

theorem test_witness_IdleUnitRejectsDataAndEnd : State.reset.block.mode .dmd = .idle := rfl

/-- Each of the three kinds of invalid payload, at an ACTIVE unit. -/
theorem test_witness_InvalidSymbolEntersErrorMode :
    (amieActive.block.mode .amie = .active ∧ (3#2 : SymbolCode) = 3#2) ∧
      (hdb3dBlock { mode := .active, buf := [] }).mode .hdb3d = .active ∧
      (dmdBlock { mode := .active, st := .plus, half := none }).mode .dmd = .active ∧
      validPayload .amie 3#2 = false ∧ validPayload .hdb3d 2#2 = false ∧
      validPayload .dmd 0#2 = false := by
  decide

theorem test_witness_ErrorModeAbortsUntilEndOrStart :
    (dmeBlock { mode := .error, st := .minus }).mode .dme = .error := rfl

/-- A DATA to an IDLE unit, and a word with RSV = 1. -/
theorem test_witness_StatusFollowsPriorityOrder :
    (presenting 0x08#8).input = .command 0x08#8 :: [] ∧ decode 0x08#8 = .ok (.amieData 0#2) ∧
      Instr.operation (.amieData 0#2) = .data ∧ (presenting 0x08#8).block.mode .amie = .idle ∧
      (presenting 0x97#8).input = .command 0x97#8 :: [] ∧ (0x97#8).toNat / 4 % 2 = 1 :=
  ⟨rfl, rfl, rfl, rfl, rfl, rfl⟩

/-- The three ways a MODE register changes. -/
theorem test_witness_OnlyNamedCommandsWriteMode :
    after .amieStart Block.reset = some (amieBlock { mode := .active, pol := .plus }, [0x0000#16]) ∧
      after .amieEnd (amieBlock { mode := .active, pol := .plus }) =
        some (amieBlock { mode := .idle, pol := .plus }, [0x0000#16]) ∧
      after (.amieData 2#2) (amieBlock { mode := .active, pol := .plus }) =
        some (amieBlock { mode := .error, pol := .plus }, [0x0001#16]) := by
  decide

/-- Two states that agree on DME and differ in AMIE. -/
theorem test_witness_CommandReadsAndWritesItsUnitOnly :
    Block.agreeOn (Instr.dmeData 1#2).unit amieActive.block State.reset.block = true ∧
      Block.agreeOn .amie amieActive.block State.reset.block = false ∧
      UnitId.amie ≠ (Instr.dmeData 1#2).unit := by
  decide

theorem test_witness_CommandsToDifferentUnitsCommute :
    Instr.unit .amieStart ≠ Instr.unit (.dmeData 0#2) := by
  decide

/-- Blocks with empty and with full buffers meet the invariant. -/
theorem test_witness_OutputCountsFollowTable :
    Block.reset.inv = true ∧
      (hdb3eBlock
        { mode := .active, pol := .plus, zrun := 3#2, pp := .even, dl := [.zero, .zero, .zero] }).inv =
          true ∧
      (hdb3dBlock { mode := .active, buf := [.plus, .zero, .zero] }).inv = true := by
  decide

theorem test_witness_EveryStepKeepsInvariant :
    (presenting 0x20#8).inv = true ∧
      outcome (step (presenting 0x20#8)) =
        some (hdb3eBlock { mode := .active, pol := .plus, zrun := 0#2, pp := .even, dl := [] },
          [0x0000#16]) := by
  decide

/-- Positions at the bounds of the clauses of the statements about passes and reference functions: position 0
of a stream of one, position 2 and 3 of a stream of four, a fourth zero, a zero in no complete group. -/
theorem test_witness_positions :
    0 < [true].length ∧ 2 < [true, false, false, false].length ∧
      3 < [true, false, false, false].length ∧ 2 * 0 + 1 < [Polarity.plus, .minus].length ∧
      [true] ≠ ([] : List Bit) ∧
      [false, false, false, false][3]? = some false ∧
      trailingZeros ([false, false, false, false].take 4) % 4 = 0 ∧
      [true][0]? = some true ∧ [false][0]? = some false ∧
      trailingZeros ([false].take 1) % 4 ≠ 0 ∧
      0 < ((amiEncode [true]).filter fun v => v ≠ .zero).length := by
  decide

/-- A clean pass of AMIE, and a closed pass of DMD of odd length, in the exchanges of a run. -/
theorem test_witness_CleanPassOutputsReference :
    (passesOf .amie [⟨0x00#8, 0x0000#16⟩, ⟨0x09#8, 0x0108#16⟩, ⟨0x10#8, 0x0000#16⟩]).map
        (fun p => (p.clean, p.input)) = [(true, [1#2])] ∧
      (passesOf .dmd [⟨0x80#8, 0x0000#16⟩, ⟨0x89#8, 0x0000#16⟩, ⟨0x90#8, 0x0002#16⟩]).map
        (fun p => (p.ending, p.input, p.exchanges.dropLast.all fun e => statusOf e.response = 0#3)) =
        [(.closed, [1#2], true)] ∧
      (match Host.Core.run Sys2Proof.core 3
          (State.reset.presentWords [0x00#8, 0x09#8, 0x10#8]) with
        | .next t => exchanges [0x00#8, 0x09#8, 0x10#8] State.reset t
        | _ => []) = [⟨0x00#8, 0x0000#16⟩, ⟨0x09#8, 0x0108#16⟩, ⟨0x10#8, 0x0000#16⟩] ∧
      (match Host.Core.run Sys2Proof.core 3
          (State.reset.presentWords [0x80#8, 0x89#8, 0x90#8]) with
        | .next t => exchanges [0x80#8, 0x89#8, 0x90#8] State.reset t
        | _ => []) = [⟨0x80#8, 0x0000#16⟩, ⟨0x89#8, 0x0000#16⟩, ⟨0x90#8, 0x0002#16⟩] := by
  decide

theorem test_witness_OrderlyHostSeesNoError :
    orderly .dmd false [.dmdStart, .amieEnd, .dmdData 1#2, .dmdEnd] = true ∧
      orderly .dmd false [.dmdEnd] = false := by
  decide

/-- Operands inside and outside an alphabet, and an encoder's bit string. -/
theorem test_witness_Assembler :
    operandCode .dmd ['0'] = none ∧ operandCode .hdb3d ['1'] = some 1#2 ∧
      (∀ p ∈ [(['0'], (0#2 : SymbolCode)), (['1'], 1#2)], operandCode .amie p.1 = some p.2) ∧
      [true, false] ≠ ([] : List Bit) ∧
      assembleTokens (mnemonicText .dme .feed :: [['1', '0'], ['0']]) =
        some [0x69#8, 0x68#8, 0x68#8] := by
  decide

end Sys2Proof.Tests
end

section
/-! # The block's answer to a command

`exec` as a function of the block's registers alone: the block after a command, its status and what it
emitted. `exec_eq` ties it to the model. The operations are answered the same way for every unit, so a
claim about every command is proved from the cases of `CommandRan` and one fact about each unit's START,
DATA and END rule. -/

namespace Sys2Proof.Machine

/-! ## The unit rules, by unit -/

/-- The START rule of unit `u` (40_dispatch.md R63). -/
def Block.fresh (u : UnitId) (b : Block) : Block :=
  match u with
  | .amie => { b with amie := b.amie.fresh }
  | .hdb3e => { b with hdb3e := b.hdb3e.fresh }
  | .hdb3d => { b with hdb3d := b.hdb3d.fresh }
  | .dme => { b with dme := b.dme.fresh }
  | .dmd => { b with dmd := b.dmd.fresh }

/-- The DATA rule of unit `u`, none for a payload outside its alphabet (40_dispatch.md R64). -/
def Block.data (u : UnitId) (pay : SymbolCode) (b : Block) : Option (Block × Emission) :=
  match u with
  | .amie => (bitSymbol pay).map fun x =>
      ({ b with amie := (b.amie.data x).1 }, (b.amie.data x).2)
  | .hdb3e => (bitSymbol pay).map fun x =>
      ({ b with hdb3e := (b.hdb3e.data x).1 }, (b.hdb3e.data x).2)
  | .hdb3d => (sampleSymbol pay).map fun x =>
      ({ b with hdb3d := (b.hdb3d.data x).1 }, (b.hdb3d.data x).2)
  | .dme => (bitSymbol pay).map fun x =>
      ({ b with dme := (b.dme.data x).1 }, (b.dme.data x).2)
  | .dmd => (dmSymbol pay).map fun x =>
      ({ b with dmd := (b.dmd.data x).1 }, (b.dmd.data x).2)

/-- The END rule of unit `u` (40_dispatch.md R65). -/
def Block.finish (u : UnitId) (b : Block) : Block × Status × Emission :=
  match u with
  | .amie => (b, .ok, .none)
  | .hdb3e => ({ b with hdb3e := b.hdb3e.flush.1 }, .ok, b.hdb3e.flush.2)
  | .hdb3d => ({ b with hdb3d := b.hdb3d.flush.1 }, .ok, b.hdb3d.flush.2)
  | .dme => (b, .ok, .none)
  | .dmd => ({ b with dmd := b.dmd.finish.1 }, b.dmd.finish.2, .none)

theorem data_isSome (u : UnitId) (pay : SymbolCode) (b : Block) :
    (b.data u pay).isSome = validPayload u pay := by
  cases u <;> simp [Block.data, validPayload]

/-! ## The answer -/

/-- The mode gate and the alphabet check of DATA (40_dispatch.md R62, R64): `accepted` is what the unit's rule
makes of the payload, none where it is invalid. -/
def Block.gateData (u : UnitId) (accepted : Option (Block × Emission)) (b : Block) :
    Block × Status × Emission :=
  match b.mode u with
  | .idle => (b, .sequenceError, .none)
  | .error => (b, .aborted, .none)
  | .active =>
    match accepted with
    | none => (b.setMode u .error, .invalidSymbol, .none)
    | some (b', e) => (b', .ok, e)

/-- The mode gate of END (40_dispatch.md R62, R65): `finished` is the answer of an open pass. -/
def Block.gateEnd (u : UnitId) (finished : Block × Status × Emission) (b : Block) :
    Block × Status × Emission :=
  match b.mode u with
  | .idle => (b, .sequenceError, .none)
  | .error => (b.setMode u .idle, .aborted, .none)
  | .active => finished

/-- The block after the command `i`, with the status and the emission of its response
(40_dispatch.md R62 to R65). -/
def Block.command (i : Instr) (b : Block) : Block × Status × Emission :=
  match i.operation with
  | .start => ((b.fresh i.unit).setMode i.unit .active, .ok, .none)
  | .data => b.gateData i.unit (b.data i.unit i.payload)
  | .close => b.gateEnd i.unit ((b.setMode i.unit .idle).finish i.unit)

/-- Return the answer `a` to the host (40_dispatch.md R66). -/
def State.reply (a : Block × Status × Emission) (s : State) : State := respond a.1 a.2.1 a.2.2 s

/-- The response word of an answer (30_encoding.md R59). -/
def answerWord (a : Status × Emission) : ResponseWord := responseWord a.1 a.2

@[simp] theorem reply_block (a : Block × Status × Emission) (s : State) :
    (s.reply a).block = a.1 := rfl

@[simp] theorem reply_input (a : Block × Status × Emission) (s : State) :
    (s.reply a).input = s.input := rfl

@[simp] theorem reply_responses (a : Block × Status × Emission) (s : State) :
    (s.reply a).responses = s.responses ++ [answerWord a.2] := rfl

/-- The common part of DATA replies as its gate says. -/
theorem dataCommand_eq_reply {α : Type} (u : UnitId) (symbol : Option α)
    (rule : α → Block → Block × Emission) (s : State) :
    dataCommand u symbol rule s =
      s.reply (s.block.gateData u (symbol.map fun x => rule x s.block)) := by
  unfold Block.gateData
  rcases dataCommand_cases u symbol rule s with
    ⟨hm, h⟩ | ⟨hm, h⟩ | ⟨hm, rfl, h⟩ | ⟨x, hm, rfl, h⟩ <;> rw [h, hm] <;> rfl

/-- The common part of END replies as its gate says. -/
theorem endCommand_eq_reply (u : UnitId) (rule : Block → Block × Status × Emission) (s : State) :
    endCommand u rule s = s.reply (s.block.gateEnd u (rule (s.block.setMode u .idle))) := by
  unfold Block.gateEnd
  rcases endCommand_cases u rule s with ⟨hm, h⟩ | ⟨hm, h⟩ | ⟨hm, h⟩ <;> rw [h, hm] <;> rfl

/-- Every command completes, and it replies with the block's answer (R62). -/
theorem exec_eq (i : Instr) (s : State) : exec i s = .next (s.reply (s.block.command i)) := by
  cases i with
  | amieStart | hdb3eStart | hdb3dStart | dmeStart | dmdStart => rfl
  | amieData | hdb3eData | hdb3dData | dmeData | dmdData =>
    exact congrArg Host.Outcome.next (dataCommand_eq_reply ..)
  | amieEnd | hdb3eEnd | hdb3dEnd | dmeEnd | dmdEnd =>
    exact congrArg Host.Outcome.next (endCommand_eq_reply ..)

/-- Everything a command can do to the block, with its answer (R62 to R65, 60_exceptions.md R115 to
R117). -/
inductive CommandRan (i : Instr) (b : Block) : Block × Status × Emission → Prop
  | started (hop : i.operation = .start) :
      CommandRan i b ((b.fresh i.unit).setMode i.unit .active, .ok, .none)
  | rejected (hop : i.operation ≠ .start) (hm : b.mode i.unit = .idle) :
      CommandRan i b (b, .sequenceError, .none)
  | abortedData (hop : i.operation = .data) (hm : b.mode i.unit = .error) :
      CommandRan i b (b, .aborted, .none)
  | abortedEnd (hop : i.operation = .close) (hm : b.mode i.unit = .error) :
      CommandRan i b (b.setMode i.unit .idle, .aborted, .none)
  | invalid (hop : i.operation = .data) (hm : b.mode i.unit = .active)
      (hd : b.data i.unit i.payload = none) :
      CommandRan i b (b.setMode i.unit .error, .invalidSymbol, .none)
  | accepted (b' : Block) (e : Emission) (hop : i.operation = .data)
      (hm : b.mode i.unit = .active) (hd : b.data i.unit i.payload = some (b', e)) :
      CommandRan i b (b', .ok, e)
  | closed (hop : i.operation = .close) (hm : b.mode i.unit = .active) :
      CommandRan i b ((b.setMode i.unit .idle).finish i.unit)

theorem command_ran (i : Instr) (b : Block) : CommandRan i b (b.command i) := by
  unfold Block.command Block.gateData Block.gateEnd
  cases hop : i.operation with
  | start => exact .started hop
  | data =>
    cases hm : b.mode i.unit with
    | idle => exact .rejected (by simp [hop]) hm
    | error => exact .abortedData hop hm
    | active =>
      rcases hd : b.data i.unit i.payload with _ | ⟨b', e⟩
      · exact .invalid hop hm hd
      · exact .accepted b' e hop hm hd
  | close =>
    cases hm : b.mode i.unit with
    | idle => exact .rejected (by simp [hop]) hm
    | error => exact .abortedEnd hop hm
    | active => exact .closed hop hm

theorem command_start {i : Instr} {b : Block} (hop : i.operation = .start) :
    b.command i = ((b.fresh i.unit).setMode i.unit .active, .ok, .none) := by
  simp only [Block.command, hop]

theorem command_idle {i : Instr} {b : Block} (hop : i.operation ≠ .start)
    (hm : b.mode i.unit = .idle) : b.command i = (b, .sequenceError, .none) := by
  cases h : i.operation with
  | start => exact absurd h hop
  | data => simp only [Block.command, h, Block.gateData, hm]
  | close => simp only [Block.command, h, Block.gateEnd, hm]

theorem command_data_active {i : Instr} {b b' : Block} {e : Emission} (hop : i.operation = .data)
    (hm : b.mode i.unit = .active) (hd : b.data i.unit i.payload = some (b', e)) :
    b.command i = (b', .ok, e) := by
  simp only [Block.command, hop, Block.gateData, hm, hd]

/-! ## A command is its unit's alone (10_state.md R17) -/

@[simp] theorem hdb3d_data_mode (x : Sample) (u : Hdb3d) : (u.data x).1.mode = u.mode := by
  simp only [Hdb3d.data]
  split
  · simp only [Hdb3d.decide]; split <;> rfl
  · rfl

/-- Each unit's DATA rule writes that unit's registers and keeps its MODE (R21). -/
theorem data_frame {u : UnitId} {pay : SymbolCode} {b b' : Block} {e : Emission}
    (h : b.data u pay = some (b', e)) :
    b'.mode u = b.mode u ∧ ∀ v, v ≠ u → Block.agreeOn v b' b = true := by
  cases u <;>
    · obtain ⟨x, -, hx⟩ := Option.map_eq_some_iff.mp h
      cases hx
      refine ⟨by simp [Block.mode], fun v hv => ?_⟩
      cases v <;> simp [Block.agreeOn] at hv ⊢

theorem fresh_frame (u : UnitId) (b : Block) (v : UnitId) (hv : v ≠ u) :
    Block.agreeOn v (b.fresh u) b = true := by
  cases u <;> cases v <;> simp [Block.agreeOn, Block.fresh] at hv ⊢

theorem finish_frame (u : UnitId) (b : Block) (v : UnitId) (hv : v ≠ u) :
    Block.agreeOn v (b.finish u).1 b = true := by
  cases u <;> cases v <;> simp [Block.agreeOn, Block.finish] at hv ⊢

@[simp] theorem finish_mode (u v : UnitId) (b : Block) : (b.finish u).1.mode v = b.mode v := by
  cases u <;> cases v <;> try rfl
  simp only [Block.finish, Block.mode, Dmd.finish]
  split <;> rfl

theorem agreeOn_trans {u : UnitId} {a b c : Block} (h : Block.agreeOn u a b = true)
    (h' : Block.agreeOn u b c = true) : Block.agreeOn u a c = true := by
  cases u <;> simp_all [Block.agreeOn]

/-- A command leaves the registers of every other unit alone. -/
theorem command_frame (i : Instr) (b : Block) (v : UnitId) (hv : v ≠ i.unit) :
    Block.agreeOn v (b.command i).1 b = true := by
  have hran := command_ran i b
  generalize b.command i = a at hran ⊢
  cases hran with
  | started => exact agreeOn_trans (agreeOn_setMode_other hv _ _) (fresh_frame _ _ v hv)
  | rejected | abortedData => exact agreeOn_refl v b
  | abortedEnd | invalid => exact agreeOn_setMode_other hv _ _
  | accepted b' e hop hm hd => exact (data_frame hd).2 v hv
  | closed => exact agreeOn_trans (finish_frame _ _ v hv) (agreeOn_setMode_other hv _ _)

theorem agreeOn_setMode {u : UnitId} {a b : Block} (h : Block.agreeOn u a b = true) (m : Mode) :
    Block.agreeOn u (a.setMode u m) (b.setMode u m) = true := by
  cases u <;> simp_all [Block.agreeOn, Block.setMode]

theorem agreeOn_fresh {u : UnitId} {a b : Block} (h : Block.agreeOn u a b = true) :
    Block.agreeOn u (a.fresh u) (b.fresh u) = true := by
  cases u <;> simp_all [Block.agreeOn, Block.fresh]

theorem agreeOn_finish {u : UnitId} {a b : Block} (h : Block.agreeOn u a b = true) :
    Block.agreeOn u (a.finish u).1 (b.finish u).1 = true ∧ (a.finish u).2 = (b.finish u).2 := by
  cases u <;> simp_all [Block.agreeOn, Block.finish]

/-- Two blocks that agree on a unit both accept or both refuse a payload, and emit the same. -/
theorem agreeOn_data {u : UnitId} {a b : Block} (h : Block.agreeOn u a b = true)
    (pay : SymbolCode) :
    (a.data u pay = none ∧ b.data u pay = none) ∨
    ∃ a' b' e, a.data u pay = some (a', e) ∧ b.data u pay = some (b', e) ∧
      Block.agreeOn u a' b' = true := by
  cases hd : validPayload u pay with
  | false =>
    exact .inl ⟨by simpa [hd] using data_isSome u pay a, by simpa [hd] using data_isSome u pay b⟩
  | true =>
    refine .inr ?_
    cases u <;>
      · obtain ⟨x, hx⟩ := Option.isSome_iff_exists.mp hd
        simp_all [Block.agreeOn, Block.data]

/-- A command reads its own unit's registers only. -/
theorem command_agree {i : Instr} {a b : Block} (h : Block.agreeOn i.unit a b = true) :
    Block.agreeOn i.unit (a.command i).1 (b.command i).1 = true ∧
      (a.command i).2 = (b.command i).2 := by
  have hmode := agreeOn_mode h
  unfold Block.command Block.gateData Block.gateEnd
  cases i.operation with
  | start => exact ⟨agreeOn_setMode (agreeOn_fresh h) .active, rfl⟩
  | data =>
    rw [hmode]
    cases b.mode i.unit with
    | idle | error => exact ⟨h, rfl⟩
    | active =>
      rcases agreeOn_data h i.payload with ⟨ha, hb⟩ | ⟨a', b', e, ha, hb, hab⟩
      · rw [ha, hb]; exact ⟨agreeOn_setMode h .error, rfl⟩
      · rw [ha, hb]; exact ⟨hab, rfl⟩
  | close =>
    rw [hmode]
    cases b.mode i.unit with
    | idle => exact ⟨h, rfl⟩
    | error => exact ⟨agreeOn_setMode h .idle, rfl⟩
    | active => exact agreeOn_finish (agreeOn_setMode h .idle)

/-- Settles O34: `command_agree` for the unit itself, `command_frame` for the others. -/
theorem commandReadsAndWritesItsUnitOnly : Obligations.CommandReadsAndWritesItsUnitOnly := by
  intro i s s' h
  obtain ⟨hblock, hanswer⟩ := command_agree h
  exact ⟨_, _, answerWord (s.block.command i).2, exec_eq i s, exec_eq i s', hblock, rfl,
    by rw [reply_responses, hanswer], fun v hv => command_frame i s.block v hv⟩

/-! ## Who writes MODE (10_state.md R21) -/

@[simp] theorem fresh_mode (u v : UnitId) (b : Block) : (b.fresh u).mode v = b.mode v := by
  cases u <;> cases v <;> rfl

/-- What a command makes of its own unit's MODE, where it changes it. -/
theorem command_mode (i : Instr) (b : Block)
    (h : (b.command i).1.mode i.unit ≠ b.mode i.unit) :
    (i.operation = .start ∧ (b.command i).1.mode i.unit = .active) ∨
    (i.operation = .close ∧ b.mode i.unit ≠ .idle ∧ (b.command i).1.mode i.unit = .idle) ∨
    (i.operation = .data ∧ b.mode i.unit = .active ∧ validPayload i.unit i.payload = false ∧
      (b.command i).1.mode i.unit = .error) := by
  have hran := command_ran i b
  generalize b.command i = a at hran h ⊢
  cases hran with
  | started hop => exact .inl ⟨hop, mode_setMode ..⟩
  | rejected | abortedData => exact absurd rfl h
  | abortedEnd hop hm => exact .inr (.inl ⟨hop, by simp [hm], mode_setMode ..⟩)
  | invalid hop hm hd =>
    have hinvalid : validPayload i.unit i.payload = false := by
      rw [← data_isSome i.unit i.payload b, hd]; rfl
    exact .inr (.inr ⟨hop, hm, hinvalid, mode_setMode ..⟩)
  | accepted b' e hop hm hd => exact absurd (data_frame hd).1 h
  | closed hop hm => exact .inr (.inl ⟨hop, by simp [hm], by simp⟩)

/-- Settles O33: another unit's MODE is in the frame, and its own unit's is `command_mode`. -/
theorem onlyNamedCommandsWriteMode : Obligations.OnlyNamedCommandsWriteMode := by
  intro i s t u ht hne
  rw [exec_eq] at ht
  cases ht
  obtain rfl : u = i.unit := by
    by_contra hu
    exact hne (agreeOn_mode (command_frame i s.block u hu))
  exact ⟨rfl, command_mode i s.block hne⟩

/-! ## The reset values (10_state.md R34) -/

/-- START leaves the same block, whatever its unit held: only the other units' registers remain. -/
theorem fresh_setMode_eq {u : UnitId} {a b : Block}
    (h : ∀ v, v ≠ u → Block.agreeOn v a b = true) (m : Mode) :
    (a.fresh u).setMode u m = (b.fresh u).setMode u m := by
  obtain ⟨_, _, _, _, _⟩ := a
  obtain ⟨_, _, _, _, _⟩ := b
  have h₁ := h .amie
  have h₂ := h .hdb3e
  have h₃ := h .hdb3d
  have h₄ := h .dme
  have h₅ := h .dmd
  cases u <;>
    simp_all [Block.agreeOn, Block.fresh, Block.setMode, Amie.fresh, Hdb3e.fresh, Hdb3d.fresh,
      Dme.fresh, Dmd.fresh]

/-- Settles O10: an IDLE unit's DATA and END are rejected unread, and START overwrites every register. -/
theorem resetValuesAreUnobservable : Obligations.ResetValuesAreUnobservable := by
  refine ⟨rfl, fun i s b hs hb hother => ?_⟩
  refine ⟨_, _, exec_eq i s, exec_eq i { s with block := b }, ?_⟩
  by_cases hop : i.operation = .start
  · have hsame : s.block.command i = b.command i := by
      rw [command_start hop, command_start hop, fresh_setMode_eq hother]
    exact ⟨by simp [hsame], fun _ => by rw [hsame]; rfl, fun hne => absurd hop hne⟩
  · have hs' := command_idle hop hs
    have hb' := command_idle hop hb
    exact ⟨by simp [hs', hb'], fun h => absurd h hop, fun _ => by simp [hs', hb']⟩

end Sys2Proof.Machine
end

section
/-! # The invariant of the block and of its responses (10_state.md R33, 30_encoding.md R59) -/

namespace Sys2Proof.Machine

/-! ## The block -/

theorem block_inv_iff (b : Block) :
    b.inv = true ↔ b.hdb3e.inv = true ∧ b.hdb3d.inv = true ∧ b.dmd.inv = true := by
  simp [Block.inv, and_assoc]

theorem hdb3d_inv_iff (u : Hdb3d) : u.inv = true ↔ u.buf.length ≤ 3 := by
  simp [Hdb3d.inv, Nat.lt_succ_iff]

/-- HDB3E's MODE may change where the claim about ZRUN is not new: into IDLE, or in an open pass. -/
theorem hdb3e_inv_setMode {u : Hdb3e} (h : u.inv = true) {m : Mode}
    (hm : m = .idle ∨ u.mode ≠ .idle) : ({ u with mode := m } : Hdb3e).inv = true := by
  rcases hm with rfl | hne
  · exact hdb3e_inv_of_closed u h
  · rw [hdb3e_inv_iff] at h ⊢
    exact ⟨h.1, .inr (h.2.resolve_left hne)⟩

theorem setMode_inv {u : UnitId} {b : Block} (h : b.inv = true) {m : Mode}
    (hm : m = .idle ∨ b.mode u ≠ .idle) : (b.setMode u m).inv = true := by
  cases u with
  | amie | hdb3d | dme | dmd => exact h
  | hdb3e =>
    obtain ⟨hE, hD, hM⟩ := (block_inv_iff b).mp h
    exact (block_inv_iff _).mpr ⟨hdb3e_inv_setMode hE hm, hD, hM⟩

/-- START establishes its unit's part of the invariant (R63). -/
theorem started_inv (u : UnitId) {b : Block} (h : b.inv = true) :
    ((b.fresh u).setMode u .active).inv = true := by
  obtain ⟨hE, hD, hM⟩ := (block_inv_iff b).mp h
  cases u with
  | amie | dme => exact h
  | hdb3e => exact (block_inv_iff _).mpr ⟨hdb3e_fresh_inv b.hdb3e .active, hD, hM⟩
  | hdb3d => exact (block_inv_iff _).mpr ⟨hE, rfl, hM⟩
  | dmd => exact (block_inv_iff _).mpr ⟨hE, hD, rfl⟩

/-- The DATA rule of an open pass keeps the invariant (R64). -/
theorem data_inv {u : UnitId} {pay : SymbolCode} {b b' : Block} {e : Emission} (h : b.inv = true)
    (hm : b.mode u = .active) (hd : b.data u pay = some (b', e)) : b'.inv = true := by
  obtain ⟨hE, hD, hM⟩ := (block_inv_iff b).mp h
  cases u <;> obtain ⟨x, hx, hb'⟩ := Option.map_eq_some_iff.mp hd <;> cases hb'
  case amie | dme => exact h
  case hdb3e =>
    have hopen : b.hdb3e.mode ≠ .idle := by simp [show b.hdb3e.mode = .active from hm]
    exact (block_inv_iff _).mpr ⟨hdb3e_data_inv x b.hdb3e hE hopen, hD, hM⟩
  case hdb3d => exact (block_inv_iff _).mpr ⟨hE, hdb3d_data_inv x b.hdb3d hD, hM⟩
  case dmd => exact (block_inv_iff _).mpr ⟨hE, hD, dmd_data_inv x b.dmd (dmSymbol_ne_zero hx)⟩

/-- The END rule of a unit that is IDLE again keeps the invariant (R65). -/
theorem finish_inv {u : UnitId} {b : Block} (h : b.inv = true) (hm : b.mode u = .idle) :
    (b.finish u).1.inv = true := by
  obtain ⟨hE, hD, hM⟩ := (block_inv_iff b).mp h
  cases u with
  | amie | dme => exact h
  | hdb3e =>
    have hflush : b.hdb3e.flush.1.inv = true :=
      (hdb3e_inv_iff _).mpr ⟨Nat.zero_le 3, .inl hm⟩
    exact (block_inv_iff _).mpr ⟨hflush, hD, hM⟩
  | hdb3d => exact (block_inv_iff _).mpr ⟨hE, rfl, hM⟩
  | dmd =>
    have hfinish : b.dmd.finish.1.inv = true := by simp [Dmd.inv, dmd_finish_half]
    exact (block_inv_iff _).mpr ⟨hE, hD, hfinish⟩

/-- Every command keeps the block's invariant. -/
theorem command_inv (i : Instr) {b : Block} (h : b.inv = true) : (b.command i).1.inv = true := by
  have hran := command_ran i b
  generalize b.command i = a at hran ⊢
  cases hran with
  | started => exact started_inv i.unit h
  | rejected | abortedData => exact h
  | abortedEnd => exact setMode_inv h (.inl rfl)
  | invalid hop hm => exact setMode_inv h (.inr (by simp [hm]))
  | accepted b' e hop hm hd => exact data_inv h hm hd
  | closed => exact finish_inv (setMode_inv h (.inl rfl)) (mode_setMode ..)

/-! ## The responses -/

/-- The answers whose word has the form of R59: at most three symbols, none with the code 10, and nothing
emitted with a status other than OK. -/
def AnswerOk (a : Status × Emission) : Prop :=
  a.2.out.length ≤ 3 ∧ (∀ c ∈ a.2.out, c ≠ 2#2) ∧ (a.1 ≠ .ok → a.2 = .none)

theorem answerOk_none (st : Status) : AnswerOk (st, .none) :=
  ⟨Nat.zero_le 3, by simp [Emission.none], fun _ => rfl⟩

/-- The word of an OK answer that emitted only symbol codes other than 10 has the form of R59. -/
theorem responseOk_ok (e : Emission) (hlen : e.out.length ≤ 3) (hcode : ∀ c ∈ e.out, c ≠ 2#2) :
    responseOk (responseWord .ok e) = true := by
  rcases e with ⟨out, rec⟩
  match out, hlen with
  | [], _ => rcases rec with _ | _ | _ <;> decide
  | [a], _ => revert a; rcases rec with _ | _ | _ <;> decide
  | [a, b], _ => revert a b; rcases rec with _ | _ | _ <;> decide
  | [a, b, c], _ => revert a b c; rcases rec with _ | _ | _ <;> decide

theorem responseOk_answerWord {a : Status × Emission} (h : AnswerOk a) :
    responseOk (answerWord a) = true := by
  obtain ⟨st, e⟩ := a
  obtain ⟨hlen, hcode, hnone⟩ := h
  by_cases hst : st = .ok
  · subst hst; exact responseOk_ok e hlen hcode
  · obtain rfl : e = .none := hnone hst
    cases st <;> decide

/-- What a DATA of HDB3E emits: nothing, or the oldest sample of the delay line (R88). -/
theorem shift_out (v : Sample) (u : Hdb3e) (r : Option Pattern) :
    ∃ l : List Sample, l.length ≤ 1 ∧ (Hdb3e.shift v u r).2.out = l.map Sample.code := by
  simp only [Hdb3e.shift]
  split
  · exact ⟨(u.dl ++ [v]).take 1, by simp, rfl⟩
  · exact ⟨[], by simp, rfl⟩

theorem hdb3e_data_out (x : Bit) (u : Hdb3e) :
    ∃ l : List Sample, l.length ≤ 1 ∧ (u.data x).2.out = l.map Sample.code := by
  rcases hdb3e_data_cases x u with ⟨_, h⟩ | ⟨_, _, h⟩ | ⟨_, _, _, h⟩ | ⟨_, _, _, h⟩ <;>
    rw [h] <;> exact shift_out ..

/-- What a DATA of HDB3D emits: nothing, or one bit (R96). -/
theorem hdb3d_data_out (x : Sample) (u : Hdb3d) :
    ∃ l : List Bit, l.length ≤ 1 ∧ (u.data x).2.out = l.map bitCode := by
  simp only [Hdb3d.data]
  split
  · simp only [Hdb3d.decide]
    split
    · exact ⟨[false], by simp, rfl⟩
    · exact ⟨[_], by simp, rfl⟩
    · exact ⟨[], by simp, rfl⟩
  · exact ⟨[], by simp, rfl⟩

/-- What a DATA of DMD emits: nothing, or one bit (R110). -/
theorem dmd_data_out (x : Sample) (u : Dmd) :
    ∃ l : List Bit, l.length ≤ 1 ∧ (u.data x).2.out = l.map bitCode := by
  rcases h : u.half with _ | y
  · rw [dmd_data_first x u h]; exact ⟨[], by simp, rfl⟩
  · rw [dmd_data_second x y u h]
    split
    · exact ⟨[false], by simp, rfl⟩
    · exact ⟨[true], by simp, rfl⟩

theorem answerOk_samples {e : Emission} {l : List Sample} (hlen : l.length ≤ 3)
    (h : e.out = l.map Sample.code) : AnswerOk (.ok, e) :=
  ⟨by simpa [h] using hlen, by simp [h, Sample.code_ne_reserved], fun hne => absurd rfl hne⟩

theorem answerOk_bits {e : Emission} {l : List Bit} (hlen : l.length ≤ 3)
    (h : e.out = l.map bitCode) : AnswerOk (.ok, e) :=
  ⟨by simpa [h] using hlen, by simp only [h, List.forall_mem_map]; exact fun b _ => bitCode_ne_reserved b,
    fun hne => absurd rfl hne⟩

theorem data_answerOk {u : UnitId} {pay : SymbolCode} {b b' : Block} {e : Emission}
    (hd : b.data u pay = some (b', e)) : AnswerOk (.ok, e) := by
  cases u <;> obtain ⟨x, -, hb'⟩ := Option.map_eq_some_iff.mp hd <;> cases hb'
  case amie =>
    cases x with
    | false => exact answerOk_samples (l := [.zero]) (by simp) rfl
    | true => exact answerOk_samples (l := [b.amie.pol.sample]) (by simp) rfl
  case hdb3e =>
    obtain ⟨l, hl, h⟩ := hdb3e_data_out x b.hdb3e
    exact answerOk_samples (by omega) h
  case hdb3d =>
    obtain ⟨l, hl, h⟩ := hdb3d_data_out x b.hdb3d
    exact answerOk_bits (by omega) h
  case dme =>
    cases x with
    | false => exact answerOk_samples (l := [b.dme.st.sample, b.dme.st.neg.sample]) (by simp) rfl
    | true => exact answerOk_samples (l := [b.dme.st.neg.sample, b.dme.st.sample]) (by simp) rfl
  case dmd =>
    obtain ⟨l, hl, h⟩ := dmd_data_out x b.dmd
    exact answerOk_bits (by omega) h

/-- END emits what its unit holds, which the invariant bounds by three symbols (R65). -/
theorem finish_answerOk (u : UnitId) {b : Block} (h : b.inv = true) : AnswerOk (b.finish u).2 := by
  obtain ⟨hE, hD, -⟩ := (block_inv_iff b).mp h
  cases u with
  | amie | dme => exact answerOk_none .ok
  | dmd => exact answerOk_none b.dmd.finish.2
  | hdb3e => exact answerOk_samples ((hdb3e_inv_iff _).mp hE).1 rfl
  | hdb3d =>
    refine answerOk_bits (l := b.hdb3d.buf.map sampleBit) ?_ ?_
    · simpa using (hdb3d_inv_iff _).mp hD
    · simp [Hdb3d.flush, Emission.symbols]

theorem command_answerOk (i : Instr) {b : Block} (h : b.inv = true) : AnswerOk (b.command i).2 := by
  have hran := command_ran i b
  generalize b.command i = a at hran ⊢
  cases hran with
  | started | rejected | abortedData | abortedEnd | invalid => exact answerOk_none _
  | accepted b' e hop hm hd => exact data_answerOk hd
  | closed => exact finish_answerOk i.unit (setMode_inv h (.inl rfl))

/-! ## The machine -/

theorem state_inv_iff (s : State) :
    s.inv = true ↔ s.block.inv = true ∧ ∀ r ∈ s.responses, responseOk r = true := by
  simp [State.inv]

/-- A reply keeps the invariant when its block has it and its word the form of R59. -/
theorem reply_inv {s : State} (h : s.inv = true) {a : Block × Status × Emission}
    (hblock : a.1.inv = true) (hanswer : AnswerOk a.2) : (s.reply a).inv = true := by
  obtain ⟨-, hresp⟩ := (state_inv_iff s).mp h
  refine (state_inv_iff _).mpr ⟨hblock, fun r hr => ?_⟩
  rcases List.mem_append.mp hr with hr | hr
  · exact hresp r hr
  · rw [List.mem_singleton.mp hr]; exact responseOk_answerWord hanswer

theorem block_reset_inv : Block.reset.inv = true := by decide

/-- Settles O38: nothing waits in any unit after reset, and nothing has been answered. -/
theorem invariantHoldsAtReset : Obligations.InvariantHoldsAtReset :=
  (state_inv_iff _).mpr ⟨block_reset_inv, by simp [State.reset]⟩

/-- What a step can be: nothing, a reset, an `Illegal` word, or a command's reply (40_dispatch.md R62). -/
theorem step_cases (s : State) :
    (s.input = [] ∧ step s = .next s) ∨
    ∃ (x : HostInput) (rest : List HostInput), s.input = x :: rest ∧
      ((x = .reset ∧ step s = .next (hardwareReset { s with input := rest })) ∨
      (∃ w e, x = .command w ∧ decode w = .error e ∧
        step s = .next (illegalCommand { s with input := rest })) ∨
      (∃ w i, x = .command w ∧ decode w = .ok i ∧
        step s = .next (({ s with input := rest } : State).reply (s.block.command i)))) := by
  unfold step
  rcases takeInput_cases s with ⟨hin, htake⟩ | ⟨x, rest, hin, htake⟩
  · exact .inl ⟨hin, by rw [htake]⟩
  · refine .inr ⟨x, rest, hin, ?_⟩
    rw [htake]
    cases x with
    | reset => exact .inl ⟨rfl, rfl⟩
    | command w =>
      cases hw : decode w with
      | error e => exact .inr (.inl ⟨w, e, rfl, hw, by simp [hw]⟩)
      | ok i => exact .inr (.inr ⟨w, i, rfl, hw, by simp [hw, exec_eq]⟩)

/-- Settles O37, by the cases of a step: a reset and an `Illegal` word touch nothing the invariant speaks
of that it does not restore, and a command's reply is `command_inv` with `command_answerOk`. -/
theorem everyStepKeepsInvariant : Obligations.EveryStepKeepsInvariant := by
  intro s t hinv hstep
  obtain ⟨hblock, hresp⟩ := (state_inv_iff s).mp hinv
  rcases step_cases s with ⟨-, h⟩ | ⟨x, rest, -, h⟩
  · rw [h] at hstep; cases hstep; exact hinv
  · have htaken : ({ s with input := rest } : State).inv = true := hinv
    rcases h with ⟨-, h⟩ | ⟨w, e, -, -, h⟩ | ⟨w, i, -, -, h⟩ <;> rw [h] at hstep <;> cases hstep
    · exact (state_inv_iff _).mpr ⟨block_reset_inv, hresp⟩
    · exact reply_inv htaken (a := (s.block, .illegalCommand, .none)) hblock (answerOk_none _)
    · exact reply_inv htaken (command_inv i hblock) (command_answerOk i hblock)

end Sys2Proof.Machine
end

section
/-! # Runs of commands

A run over presented commands is the block's answers in turn (`run_present`); the part of a pass that a
START and some DATA make is one unit's DATA rule fed with the symbols (`run_partOfPass`). -/

namespace Sys2Proof

/-! ## The host's words decode to the host's commands (30_encoding.md R55, R57) -/

theorem fieldsOf_encode (i : Instr) : fieldsOf (encode i) = i.fields :=
  match i with
  | .amieStart => Laws.EncodeFields.amieStart.1
  | .amieData pay => (Laws.EncodeFields.amieData pay).1
  | .amieEnd => Laws.EncodeFields.amieEnd.1
  | .hdb3eStart => Laws.EncodeFields.hdb3eStart.1
  | .hdb3eData pay => (Laws.EncodeFields.hdb3eData pay).1
  | .hdb3eEnd => Laws.EncodeFields.hdb3eEnd.1
  | .hdb3dStart => Laws.EncodeFields.hdb3dStart.1
  | .hdb3dData pay => (Laws.EncodeFields.hdb3dData pay).1
  | .hdb3dEnd => Laws.EncodeFields.hdb3dEnd.1
  | .dmeStart => Laws.EncodeFields.dmeStart.1
  | .dmeData pay => (Laws.EncodeFields.dmeData pay).1
  | .dmeEnd => Laws.EncodeFields.dmeEnd.1
  | .dmdStart => Laws.EncodeFields.dmdStart.1
  | .dmdData pay => (Laws.EncodeFields.dmdData pay).1
  | .dmdEnd => Laws.EncodeFields.dmdEnd.1

@[simp] theorem unitOfCode_code (u : UnitId) : unitOfCode u.code = some u := by cases u <;> rfl

@[simp] theorem operationOfCode_code (op : Operation) : operationOfCode op.code = some op := by
  cases op <;> rfl

theorem commandOf_fields (i : Instr) : commandOf i.unit i.operation i.payload = i := by
  cases i <;> rfl

/-- START and END carry no payload (R48). -/
theorem payload_eq_zero {i : Instr} (h : i.operation ≠ .data) : i.payload = 0#2 := by
  cases i with
  | amieData | hdb3eData | hdb3dData | dmeData | dmdData => exact absurd rfl h
  | _ => rfl

@[simp] theorem decode_encode (i : Instr) : decode (encode i) = .ok i := by
  have hpay : ¬ (i.operation ≠ .data ∧ i.payload ≠ 0#2) :=
    fun ⟨hop, hne⟩ => hne (payload_eq_zero hop)
  unfold decode
  rw [fieldsOf_encode]
  simp [decodeFields, Instr.fields, hpay, commandOf_fields]

@[simp] theorem startOf_unit (u : UnitId) : (startOf u).unit = u := by cases u <;> rfl

@[simp] theorem startOf_operation (u : UnitId) : (startOf u).operation = .start := by cases u <;> rfl

@[simp] theorem dataOf_unit (u : UnitId) (pay : SymbolCode) : (dataOf u pay).unit = u := by
  cases u <;> rfl

@[simp] theorem dataOf_operation (u : UnitId) (pay : SymbolCode) :
    (dataOf u pay).operation = .data := by
  cases u <;> rfl

@[simp] theorem dataOf_payload (u : UnitId) (pay : SymbolCode) : (dataOf u pay).payload = pay := by
  cases u <;> rfl

end Sys2Proof

namespace Sys2Proof.Machine

/-! ## The commands the host presents -/

/-- The block after the commands `is`, and the answers to them in order. -/
def Block.commands : List Instr → Block → Block × List (Status × Emission)
  | [], b => (b, [])
  | i :: is, b =>
    (((b.command i).1.commands is).1, (b.command i).2 :: ((b.command i).1.commands is).2)

theorem step_present_cons (i : Instr) (is : List Instr) (s : State) :
    step (s.present (i :: is)) = .next ((s.reply (s.block.command i)).present is) := by
  unfold step
  rw [takeInput_cons (s := s.present (i :: is)) (x := .command (encode i))
    (rest := (is.map encode).map HostInput.command ++ s.input) rfl]
  simp only [decode_encode, exec_eq]
  rfl

/-- A run over presented commands gives the block's answers in turn. -/
theorem run_present (is : List Instr) (s : State) :
    Host.Core.run Sys2Proof.core is.length (s.present is) =
      .next { block := (s.block.commands is).1, input := s.input,
              responses := s.responses ++ (s.block.commands is).2.map answerWord } := by
  induction is generalizing s with
  | nil => simp [State.present, State.presentWords, Block.commands]
  | cons i is ih =>
    rw [List.length_cons, run_succ _ (step_present_cons i is s), ih]
    simp [Block.commands]

/-! ## The part of a pass -/

/-- A unit's DATA rule fed with one symbol after another: the registers at the end, and what each DATA
emitted. -/
def feed {α U : Type} (data : α → U → U × Emission) : List α → U → U × List Emission
  | [], u => (u, [])
  | x :: xs, u => ((feed data xs (data x u).1).1, (data x u).2 :: (feed data xs (data x u).1).2)

theorem feed_snoc {α U : Type} (data : α → U → U × Emission) (xs : List α) (x : α) (u : U) :
    feed data (xs ++ [x]) u =
      ((data x (feed data xs u).1).1, (feed data xs u).2 ++ [(data x (feed data xs u).1).2]) := by
  induction xs generalizing u with
  | nil => rfl
  | cons y ys ih => simp [feed, ih]

/-- What holds of everything a DATA rule emits holds of every emission of a feed. -/
theorem feed_forall {α U : Type} {data : α → U → U × Emission} {P : Emission → Prop}
    (h : ∀ x u, P (data x u).2) (xs : List α) (u : U) : ∀ e ∈ (feed data xs u).2, P e := by
  induction xs generalizing u with
  | nil => simp [feed]
  | cons x xs ih => simpa [feed] using ⟨h x u, ih _⟩

/-- `data` is the DATA rule of unit `u` on its registers `get b`, and accepts the symbols as `pay` codes
them. -/
def IsDataRule {α U : Type} (u : UnitId) (get : Block → U) (pay : α → SymbolCode)
    (data : α → U → U × Emission) : Prop :=
  ∀ x b, ∃ b', b.data u (pay x) = some (b', (data x (get b)).2) ∧ get b' = (data x (get b)).1

theorem amie_isDataRule : IsDataRule .amie Block.amie bitCode Amie.data :=
  fun x b => ⟨_, by rw [Block.data, bitSymbol_code]; rfl, rfl⟩

theorem hdb3e_isDataRule : IsDataRule .hdb3e Block.hdb3e bitCode Hdb3e.data :=
  fun x b => ⟨_, by rw [Block.data, bitSymbol_code]; rfl, rfl⟩

theorem hdb3d_isDataRule : IsDataRule .hdb3d Block.hdb3d Sample.code Hdb3d.data :=
  fun x b => ⟨_, by rw [Block.data, sampleSymbol_code]; rfl, rfl⟩

theorem dme_isDataRule : IsDataRule .dme Block.dme bitCode Dme.data :=
  fun x b => ⟨_, by rw [Block.data, bitSymbol_code]; rfl, rfl⟩

theorem dmd_isDataRule :
    IsDataRule .dmd Block.dmd (fun p : Polarity => p.sample.code) (fun p => Dmd.data p.sample) :=
  fun p b => ⟨_, by rw [Block.data, dmSymbol_code]; rfl, rfl⟩

/-- Valid DATA in an open pass: each is answered OK with what the unit's rule emits. -/
theorem commands_feed {α U : Type} {u : UnitId} {get : Block → U} {pay : α → SymbolCode}
    {data : α → U → U × Emission} (hdata : IsDataRule u get pay data) (xs : List α) {b : Block}
    (hm : b.mode u = .active) :
    (b.commands (xs.map fun x => dataOf u (pay x))).1.mode u = .active ∧
      get (b.commands (xs.map fun x => dataOf u (pay x))).1 = (feed data xs (get b)).1 ∧
      (b.commands (xs.map fun x => dataOf u (pay x))).2 =
        (feed data xs (get b)).2.map fun e => (.ok, e) := by
  induction xs generalizing b with
  | nil => exact ⟨hm, rfl, rfl⟩
  | cons x xs ih =>
    obtain ⟨b', hb', hget⟩ := hdata x b
    have hcommand : b.command (dataOf u (pay x)) = (b', .ok, (data x (get b)).2) :=
      command_data_active (by simp) (by simpa using hm) (by simpa using hb')
    obtain ⟨hmode, hregs, hanswers⟩ := ih (b := b') ((data_frame hb').1.trans hm)
    simp only [List.map_cons, Block.commands, hcommand, feed, ← hget]
    exact ⟨hmode, hregs, by rw [hanswers]⟩

/-- The responses of a START and of DATA that emitted `es`. -/
def partResponses (es : List Emission) : List ResponseWord :=
  answerWord (.ok, .none) :: es.map fun e => answerWord (.ok, e)

/-- From every state, START and valid DATA leave the unit ACTIVE, its registers those of a new pass fed
with the symbols, and its responses those of the feed (40_dispatch.md R63, R64). -/
theorem run_partOfPass {α U : Type} {u : UnitId} {get : Block → U} {pay : α → SymbolCode}
    {data : α → U → U × Emission} (hdata : IsDataRule u get pay data) (xs : List α) (s : State)
    {opened : U} (hopened : get ((s.block.fresh u).setMode u .active) = opened) :
    ∃ t : State,
      Host.Core.run Sys2Proof.core (xs.length + 1)
        (s.present (startOf u :: xs.map fun x => dataOf u (pay x))) = .next t ∧
      t.responses = s.responses ++ partResponses (feed data xs opened).2 ∧
      t.block.mode u = .active ∧ get t.block = (feed data xs opened).1 := by
  subst hopened
  have hrun := run_present (startOf u :: xs.map fun x => dataOf u (pay x)) s
  rw [List.length_cons, List.length_map] at hrun
  refine ⟨_, hrun, ?_⟩
  have hstart : s.block.command (startOf u) =
      ((s.block.fresh u).setMode u .active, .ok, .none) := by simp [command_start]
  obtain ⟨hmode, hregs, hanswers⟩ :=
    commands_feed hdata xs (b := (s.block.fresh u).setMode u .active) (mode_setMode ..)
  simp only [Block.commands, hstart]
  exact ⟨by simp [hanswers, partResponses], hmode, hregs⟩

theorem symbolsOf_answerWord {a : Status × Emission} (h : a.2.out.length ≤ 3) :
    symbolsOf (answerWord a) = a.2.out :=
  (read_responseWord a.1 a.2 h).1

theorem recordOf_answerWord {a : Status × Emission} (h : a.2.out.length ≤ 3) :
    recordOf (answerWord a) = a.2.record :=
  (read_responseWord a.1 a.2 h).2.1

/-- The host reads back the symbols the DATA emitted. -/
theorem partResponses_symbols {es : List Emission} (h : ∀ e ∈ es, e.out.length ≤ 3) :
    (partResponses es).flatMap symbolsOf = es.flatMap Emission.out := by
  have hnone : symbolsOf (answerWord (.ok, .none)) = [] := symbolsOf_answerWord (Nat.zero_le 3)
  rw [partResponses, List.flatMap_cons, hnone, List.nil_append, List.flatMap_map]
  exact List.flatMap_congr fun e he => symbolsOf_answerWord (a := (.ok, e)) (h e he)

/-- The host reads back the records the DATA set. -/
theorem partResponses_records {es : List Emission} (h : ∀ e ∈ es, e.out.length ≤ 3) :
    (partResponses es).filterMap recordOf = es.filterMap Emission.record := by
  have hnone : recordOf (answerWord (.ok, .none)) = none := recordOf_answerWord (Nat.zero_le 3)
  rw [partResponses, List.filterMap_cons_none hnone, List.filterMap_map]
  exact List.filterMap_congr fun e he => recordOf_answerWord (a := (.ok, e)) (h e he)

end Sys2Proof.Machine
end

section
/-! # The registers of AMIE, DME and DMD after part of a pass (10_state.md R33) -/

namespace Sys2Proof

/-- The polarity `p` after `n` marks, each of which negates it (00_scope.md R13). -/
def Polarity.afterMarks (p : Polarity) (n : Nat) : Polarity := if n % 2 = 0 then p else p.neg

theorem Polarity.afterMarks_succ (p : Polarity) (n : Nat) :
    p.afterMarks (n + 1) = (p.afterMarks n).neg := by
  unfold Polarity.afterMarks
  rcases Nat.mod_two_eq_zero_or_one n with h | h <;> simp [Nat.add_mod, h]

theorem Polarity.neg_afterMarks (p : Polarity) (n : Nat) :
    p.neg.afterMarks n = p.afterMarks (n + 1) := by
  rw [Polarity.afterMarks_succ]
  unfold Polarity.afterMarks
  split <;> rfl

/-- `diff_manchester_encode` resumes with the state the first bits leave (44_dm_encoder.md R99). -/
theorem dmEncodeFrom_append (st : Polarity) (x y : List Bit) :
    dmEncodeFrom st (x ++ y) =
      dmEncodeFrom st x ++ dmEncodeFrom (st.afterMarks (x.count true)) y := by
  induction x generalizing st with
  | nil => rfl
  | cons b x ih => cases b <;> simp [dmEncodeFrom, ih, Polarity.neg_afterMarks]

/-- The last sample of `diff_manchester_encode` is minus the state after it. -/
theorem dmEncodeFrom_getLast? (st : Polarity) {x : List Bit} (hx : x ≠ []) :
    (dmEncodeFrom st x).getLast? = some (st.afterMarks (x.count true)).neg.sample := by
  obtain rfl | ⟨y, b, rfl⟩ := x.eq_nil_or_concat
  · exact absurd rfl hx
  · rw [List.concat_eq_append, dmEncodeFrom_append]
    cases b <;> simp [dmEncodeFrom, Polarity.afterMarks_succ]

end Sys2Proof

namespace Sys2Proof.Machine

theorem amie_feed (x : List Bit) (u : Amie) :
    (feed Amie.data x u).1 = { u with pol := u.pol.afterMarks (x.count true) } := by
  induction x generalizing u with
  | nil => rfl
  | cons b x ih => cases b <;> simp [feed, Amie.data, ih, Polarity.neg_afterMarks]

theorem dme_feed (x : List Bit) (u : Dme) :
    (feed Dme.data x u).1 = { u with st := u.st.afterMarks (x.count true) } := by
  induction x generalizing u with
  | nil => rfl
  | cons b x ih => cases b <;> simp [feed, Dme.data, ih, Polarity.neg_afterMarks]

/-- Settles O46: each 1 bit negates POL, and ST. -/
theorem polarityCountsMarksOfPass : Obligations.PolarityCountsMarksOfPass := by
  intro x s
  constructor
  · obtain ⟨t, hrun, -, -, hregs⟩ :=
      run_partOfPass amie_isDataRule x s (opened := ⟨.active, .plus⟩) rfl
    exact ⟨t, hrun, hregs.trans (amie_feed x _)⟩
  · obtain ⟨t, hrun, -, -, hregs⟩ :=
      run_partOfPass dme_isDataRule x s (opened := ⟨.active, .plus⟩) rfl
    have hdme := hregs.trans (dme_feed x _)
    refine ⟨t, hrun, hdme, fun hx => ?_⟩
    rw [hdme]
    exact dmEncodeFrom_getLast? .plus hx

/-- DMD in a pass that was fed `x`: a half pair waits exactly after an odd number of samples, and ST counts
the `1` bits emitted. -/
structure DmdFollows (x : List Polarity) (u : Dmd) (es : List Emission) : Prop where
  half : u.half = if x.length % 2 = 1 then x.getLast?.map Polarity.sample else none
  st : u.st = Polarity.plus.afterMarks ((es.flatMap Emission.out).count (bitCode true))

/-- One DATA of DMD (45_dm_decoder.md R110). -/
theorem DmdFollows.data {x : List Polarity} {u : Dmd} {es : List Emission} (h : DmdFollows x u es)
    (p : Polarity) :
    DmdFollows (x ++ [p]) (u.data p.sample).1 (es ++ [(u.data p.sample).2]) := by
  obtain ⟨hhalf, hst⟩ := h
  rcases Nat.mod_two_eq_zero_or_one x.length with hx | hx
  · have hnone : u.half = none := by simpa [hx] using hhalf
    rw [dmd_data_first _ u hnone]
    exact ⟨by simp [Nat.add_mod, hx], by simpa [Emission.none] using hst⟩
  · have hne : x ≠ [] := by rintro rfl; simp at hx
    have hsome : u.half = some (x.getLast hne).sample := by
      simpa [hx, List.getLast?_eq_some_getLast hne] using hhalf
    rw [dmd_data_second _ _ u hsome]
    split
    · exact ⟨by simp [Nat.add_mod, hx], by simpa [Emission.symbols, bitCode] using hst⟩
    · exact ⟨by simp [Nat.add_mod, hx],
        by simp [Emission.symbols, Polarity.afterMarks_succ, ← hst]⟩

theorem dmd_feed (x : List Polarity) (m : Mode) :
    DmdFollows x (feed (fun p => Dmd.data p.sample) x ⟨m, .plus, none⟩).1
      (feed (fun p => Dmd.data p.sample) x ⟨m, .plus, none⟩).2 := by
  induction x using List.reverseRecOn with
  | nil => exact ⟨rfl, rfl⟩
  | append_singleton x p ih => rw [feed_snoc]; exact ih.data p

theorem dmd_data_out_le (x : Sample) (u : Dmd) : (u.data x).2.out.length ≤ 3 := by
  obtain ⟨l, hl, h⟩ := dmd_data_out x u
  rw [h, List.length_map]; omega

/-- Settles O49: the registers of `DmdFollows`, read through the responses. -/
theorem dmdRegistersAfterPartOfPass : Obligations.DmdRegistersAfterPartOfPass := by
  intro x s
  obtain ⟨t, hrun, hresp, hmode, hregs⟩ :=
    run_partOfPass dmd_isDataRule x s (opened := ⟨.active, .plus, none⟩) rfl
  obtain ⟨hhalf, hst⟩ := dmd_feed x .active
  refine ⟨t, _, hrun, hresp, hmode, by rw [hregs, hhalf], ?_⟩
  rw [hregs, hst, partResponses_symbols (feed_forall (fun p => dmd_data_out_le p.sample) x _)]
  rfl

end Sys2Proof.Machine
end

section
/-! # The buffer of HDB3D after part of a pass (10_state.md R33, 43_hdb3_decoder.md R98) -/

namespace Sys2Proof

/-- A window of three zeros and any fourth sample is one `0` (R92). -/
theorem hdb3Decode_window (x : Sample) (rest : List Sample) :
    hdb3Decode (.zero :: .zero :: .zero :: x :: rest) = false :: hdb3Decode rest := by
  simp [hdb3Decode]

/-- A sample whose next three make no window with it is decoded on its own (R91). -/
theorem hdb3Decode_single {a b c : Sample} (h : ¬ (a = .zero ∧ b = .zero ∧ c = .zero))
    (rest : List Sample) :
    hdb3Decode (a :: b :: c :: rest) = Machine.sampleBit a :: hdb3Decode (b :: c :: rest) := by
  cases a with
  | zero => cases b <;> cases c <;> simp_all [hdb3Decode, Machine.sampleBit]
  | plus | minus => simp [hdb3Decode, Machine.sampleBit]

end Sys2Proof

namespace Sys2Proof.Machine

/-- HDB3D went from holding `held` to holding `held'` and emitted `out`: it consumed some of the oldest
samples, and `out` decodes these whatever samples follow. -/
def Decided (held held' : List Sample) (out : List SymbolCode) : Prop :=
  ∃ (bits : List Bit) (consumed : List Sample), out = bits.map bitCode ∧
    held = consumed ++ held' ∧
    ∀ more : List Sample, hdb3Decode (held ++ more) = bits ++ hdb3Decode (held' ++ more)

theorem decided_refl (held : List Sample) : Decided held held [] :=
  ⟨[], [], rfl, rfl, fun _ => rfl⟩

/-- Decisions go on after samples have been appended. -/
theorem Decided.trans_append {held held' held'' xs : List Sample} {out out' : List SymbolCode}
    (h : Decided held held' out) (h' : Decided (held' ++ xs) held'' out') :
    Decided (held ++ xs) held'' (out ++ out') := by
  obtain ⟨bits, consumed, rfl, rfl, hdec⟩ := h
  obtain ⟨bits', consumed', rfl, hheld', hdec'⟩ := h'
  refine ⟨bits ++ bits', consumed ++ consumed', by simp, by simp [hheld'], fun more => ?_⟩
  rw [List.append_assoc _ xs, hdec, ← List.append_assoc held', hdec', List.append_assoc]

/-- One DATA of HDB3D decides as R96 says. -/
theorem hdb3d_data_decided (x : Sample) (u : Hdb3d) (h : u.buf.length ≤ 3) :
    Decided (u.buf ++ [x]) (u.data x).1.buf (u.data x).2.out := by
  rcases Nat.lt_or_ge u.buf.length 3 with hlt | hge
  · rw [hdb3d_data_short x u hlt]
    exact decided_refl _
  · obtain ⟨a, b, c, hbuf⟩ := List.length_eq_three.mp (Nat.le_antisymm h hge)
    by_cases hw : a = .zero ∧ b = .zero ∧ c = .zero
    · obtain ⟨rfl, rfl, rfl⟩ := hw
      rw [hdb3d_data_window x u hbuf, hbuf]
      exact ⟨[false], [.zero, .zero, .zero, x], rfl, rfl, hdb3Decode_window x⟩
    · rw [hdb3d_data_single x a b c u hbuf hw, hbuf]
      exact ⟨[sampleBit a], [a], rfl, rfl, fun more => hdb3Decode_single hw (x :: more)⟩

/-- A part of a pass of HDB3D decides its samples in order, and at most three wait. -/
theorem hdb3d_feed_decided (xs : List Sample) (u : Hdb3d) (h : u.buf.length ≤ 3) :
    (feed Hdb3d.data xs u).1.buf.length ≤ 3 ∧
      Decided (u.buf ++ xs) (feed Hdb3d.data xs u).1.buf
        ((feed Hdb3d.data xs u).2.flatMap Emission.out) := by
  induction xs generalizing u with
  | nil => exact ⟨h, by simpa [feed] using decided_refl u.buf⟩
  | cons x xs ih =>
    have hinv := hdb3d_data_inv x u ((hdb3d_inv_iff u).mpr h)
    obtain ⟨hlen, hrest⟩ := ih (u.data x).1 ((hdb3d_inv_iff _).mp hinv)
    refine ⟨hlen, ?_⟩
    simpa [feed] using (hdb3d_data_decided x u h).trans_append hrest

theorem hdb3d_data_out_le (x : Sample) (u : Hdb3d) : (u.data x).2.out.length ≤ 3 := by
  obtain ⟨l, hl, h⟩ := hdb3d_data_out x u
  rw [h, List.length_map]; omega

/-- Settles O48: `hdb3d_feed_decided` from the empty buffer of a new pass. -/
theorem hdb3dBufferHoldsUndecidedSamples : Obligations.Hdb3dBufferHoldsUndecidedSamples := by
  intro x s
  obtain ⟨t, hrun, hresp, hmode, hregs⟩ :=
    run_partOfPass hdb3d_isDataRule x s (opened := ⟨.active, []⟩) rfl
  obtain ⟨hlen, out, consumed, hout, hx, hdec⟩ :=
    hdb3d_feed_decided x ⟨.active, []⟩ (Nat.zero_le 3)
  rw [← hregs] at hlen hx hdec
  refine ⟨t, _, out, consumed, hrun, hresp, ?_, hmode, hlen, hx, hdec⟩
  rw [partResponses_symbols (feed_forall hdb3d_data_out_le x _), hout]

end Sys2Proof.Machine
end

section
/-! # The registers of HDB3E after part of a pass (10_state.md R33)

`hdb3_encode` overwrites samples of the whole AMI signal, HDB3E rewrites the three samples in its delay line.
Both are read one bit at a time: `hdb3Encode_snoc` says what one more bit does to the reference, and
`Hdb3eFollows.data` that one more DATA does the same to the registers. -/

namespace Sys2Proof

/-! ## The reference, one more bit at the end -/

theorem amiEncodeFrom_append (p : Polarity) (x y : List Bit) :
    amiEncodeFrom p (x ++ y) =
      amiEncodeFrom p x ++ amiEncodeFrom (p.afterMarks (x.count true)) y := by
  induction x generalizing p with
  | nil => rfl
  | cons b x ih => cases b <;> simp [amiEncodeFrom, ih, Polarity.neg_afterMarks]

/-- The AMI sample of the bit `b` after the bits `x` (41_ami_encoder.md R72). -/
def amiNext (x : List Bit) (b : Bit) : Sample :=
  if b then (Config.initialPolarity.afterMarks (x.count true)).sample else .zero

theorem amiEncode_snoc (x : List Bit) (b : Bit) : amiEncode (x ++ [b]) = amiEncode x ++ [amiNext x b] := by
  unfold amiEncode
  rw [amiEncodeFrom_append]
  cases b <;> rfl

theorem trailingZeros_snoc (x : List Bit) (b : Bit) :
    trailingZeros (x ++ [b]) = if b then 0 else trailingZeros x + 1 := by
  cases b <;> simp [trailingZeros]

theorem count_snoc (x : List Bit) (b : Bit) : (x ++ [b]).count true = x.count true + b.toNat := by
  cases b <;> simp

/-- What the scan of `hdb3_encode` makes of one more bit `b` with AMI sample `v` (42_hdb3_encoder.md R78):
`z` zeros have been counted, there were `m` marks, and `e` is the signal with its patterns so far. -/
def hdb3Next (z m : Nat) (v : Sample) (e : List Sample × List Pattern) (b : Bit) :
    List Sample × List Pattern :=
  if b = false ∧ z = 3 then
    if (m + e.2.length) % 2 = 0 then (e.1.set (e.1.length - 3) .plus ++ [.minus], e.2 ++ [.even])
    else (e.1 ++ [.plus], e.2 ++ [.odd])
  else (e.1 ++ [v], e.2)

theorem hdb3Next_length (z m : Nat) (v : Sample) (e : List Sample × List Pattern) (b : Bit) :
    (hdb3Next z m v e b).1.length = e.1.length + 1 := by
  unfold hdb3Next
  split
  · split <;> simp
  · simp

/-- One bit of the scan, with the samples `t` after it not yet scanned. -/
theorem hdb3Scan_cons (z m : Nat) (hz : z < 4) (v : Sample) (e : List Sample × List Pattern)
    (t : List Sample) (b : Bit) (rest : List Bit) :
    hdb3Scan e.1.length z (m + e.2.length) (e.1 ++ v :: t) e.2 (b :: rest) =
      hdb3Scan (e.1.length + 1) (if b then 0 else (z + 1) % 4)
        (m + b.toNat + (hdb3Next z m v e b).2.length) ((hdb3Next z m v e b).1 ++ t)
        (hdb3Next z m v e b).2 rest := by
  cases b with
  | true => simp [hdb3Scan, hdb3Next, Nat.add_right_comm]
  | false =>
    by_cases h3 : z = 3
    · by_cases hc : (m + e.2.length) % 2 = 0
      · have hset : ((e.1 ++ v :: t).set (e.1.length - 3) .plus).set e.1.length .minus =
            e.1.set (e.1.length - 3) .plus ++ .minus :: t := by
          rcases Nat.eq_zero_or_pos e.1.length with h0 | hpos
          · simp [List.length_eq_zero_iff.mp h0]
          · rw [List.set_append_left _ _ (by omega), List.set_append_right _ _ (by simp)]
            simp
        simp [hdb3Scan, hdb3Next, h3, hc, hset, Nat.add_assoc]
      · have hset : (e.1 ++ v :: t).set e.1.length .plus = e.1 ++ .plus :: t := by simp
        simp [hdb3Scan, hdb3Next, h3, hc, hset, Nat.add_assoc]
    · have hmod : (z + 1) % 4 = z + 1 := Nat.mod_eq_of_lt (by omega)
      simp [hdb3Scan, hdb3Next, h3, hmod]

/-- The scan of the first bits `x` reads and writes their samples alone, and leaves the zero-run counter and
the parity counter that 42_hdb3_encoder.md R80 to R82 give. -/
def ScanSplits (x : List Bit) : Prop :=
  (hdb3Encode x).1.length = x.length ∧
  ∀ (t : List Sample) (rest : List Bit),
    hdb3Scan 0 0 0 (amiEncode x ++ t) [] (x ++ rest) =
      hdb3Scan x.length (trailingZeros x % 4) (x.count true + (hdb3Encode x).2.length)
        ((hdb3Encode x).1 ++ t) (hdb3Encode x).2 rest

theorem ScanSplits.scan_snoc {x : List Bit} (h : ScanSplits x) (b : Bit) (t : List Sample)
    (rest : List Bit) :
    let next := hdb3Next (trailingZeros x % 4) (x.count true) (amiNext x b) (hdb3Encode x) b
    hdb3Scan 0 0 0 (amiEncode (x ++ [b]) ++ t) [] (x ++ [b] ++ rest) =
      hdb3Scan (x ++ [b]).length (trailingZeros (x ++ [b]) % 4)
        ((x ++ [b]).count true + next.2.length) (next.1 ++ t) next.2 rest := by
  obtain ⟨hlen, hscan⟩ := h
  have hz : trailingZeros (x ++ [b]) % 4 = if b then 0 else (trailingZeros x % 4 + 1) % 4 := by
    rw [trailingZeros_snoc]; cases b <;> simp
  intro next
  rw [amiEncode_snoc, List.append_assoc, List.append_assoc, List.singleton_append,
    List.singleton_append, hscan, ← hlen, hdb3Scan_cons _ _ (Nat.mod_lt _ (by decide)), hz,
    count_snoc, List.length_append, List.length_singleton, hlen]

theorem ScanSplits.encode_snoc {x : List Bit} (h : ScanSplits x) (b : Bit) :
    hdb3Encode (x ++ [b]) =
      hdb3Next (trailingZeros x % 4) (x.count true) (amiNext x b) (hdb3Encode x) b := by
  simpa [hdb3Encode, hdb3Scan] using h.scan_snoc b [] []

theorem scanSplits (x : List Bit) : ScanSplits x := by
  induction x using List.reverseRecOn with
  | nil => exact ⟨rfl, fun _ _ => rfl⟩
  | append_singleton x b ih =>
    refine ⟨?_, fun t rest => ?_⟩
    · rw [ih.encode_snoc, hdb3Next_length, ih.1, List.length_append, List.length_singleton]
    · rw [ih.scan_snoc, ih.encode_snoc]

/-- `hdb3_encode` keeps the length (42_hdb3_encoder.md R83). -/
theorem hdb3Encode_length (x : List Bit) : (hdb3Encode x).1.length = x.length := (scanSplits x).1

/-- What one more bit does to `hdb3_encode`. -/
theorem hdb3Encode_snoc (x : List Bit) (b : Bit) :
    hdb3Encode (x ++ [b]) =
      hdb3Next (trailingZeros x % 4) (x.count true) (amiNext x b) (hdb3Encode x) b :=
  (scanSplits x).encode_snoc b

/-- The parity of `n`, as PP holds it (10_state.md R25). -/
def Parity.of (n : Nat) : Parity := if n % 2 = 0 then .even else .odd

theorem Parity.of_succ (n : Nat) : Parity.of (n + 1) = (Parity.of n).flip := by
  unfold Parity.of
  rcases Nat.mod_two_eq_zero_or_one n with h | h <;> simp [Nat.add_mod, h, Parity.flip]

theorem Parity.of_eq_even {n : Nat} : Parity.of n = .even ↔ n % 2 = 0 := by simp [Parity.of]

/-! ## The delay line is the end of the signal -/

theorem rtake_append_singleton (l : List Sample) (v : Sample) :
    (l.rtake 3 ++ [v]).rtake 3 = (l ++ [v]).rtake 3 := by
  have htake : (l.rtake 3).rtake 2 = l.rtake 2 := by
    simp [List.rtake_eq_reverse_take_reverse, List.take_take]
  rw [List.rtake_concat_succ, List.rtake_concat_succ, htake]

theorem rtake_set (l : List Sample) (v : Sample) :
    (l.set (l.length - 3) v).rtake 3 = (l.rtake 3).set 0 v := by
  simp [List.rtake, List.drop_set]

theorem length_rtake (l : List Sample) : (l.rtake 3).length = min l.length 3 := by
  simp only [List.rtake, List.length_drop]; omega

end Sys2Proof

namespace Sys2Proof.Machine

/-- The delay line keeps the youngest three samples (10_state.md R26, R88). -/
theorem shift_dl (v : Sample) (u : Hdb3e) (r : Option Pattern) (h : u.dl.length ≤ 3) :
    (Hdb3e.shift v u r).1.dl = (u.dl ++ [v]).rtake 3 := by
  rcases Nat.lt_or_ge u.dl.length 3 with hlt | hge
  · have hdrop : u.dl.length + 1 - 3 = 0 := by omega
    simp [shift_short v u r hlt, List.rtake, hdrop]
  · obtain ⟨x, y, z, hdl⟩ := List.length_eq_three.mp (Nat.le_antisymm h hge)
    simp [shift_full v x y z u r hdl, List.rtake, hdl]

/-- HDB3E in a pass that was fed `x`: its registers are read off the bits and `hdb3_encode` of them, and its
records are the patterns of `hdb3_encode` (10_state.md R33). -/
structure Hdb3eFollows (x : List Bit) (u : Hdb3e) (es : List Emission) : Prop where
  zrun : u.zrun.toNat = trailingZeros x % 4
  pol : u.pol = Config.initialPolarity.afterMarks (x.count true)
  pp : u.pp = Parity.of (x.count true + (hdb3Encode x).2.length)
  dl : u.dl = (hdb3Encode x).1.rtake 3
  records : es.filterMap Emission.record = (hdb3Encode x).2

/-- The end of a DATA: the sample that joins the delay line ends the signal, and the record ends the
patterns. -/
theorem hdb3eFollows_shift {x : List Bit} {b : Bit} {v : Sample} {r : Option Pattern} {u : Hdb3e}
    {es : List Emission} {signal : List Sample} {patterns : List Pattern}
    (hnext : hdb3Encode (x ++ [b]) = (signal ++ [v], patterns ++ r.toList))
    (hzrun : u.zrun.toNat = trailingZeros (x ++ [b]) % 4)
    (hpol : u.pol = Config.initialPolarity.afterMarks ((x ++ [b]).count true))
    (hpp : u.pp = Parity.of ((x ++ [b]).count true + (patterns ++ r.toList).length))
    (hdl : u.dl = signal.rtake 3) (hrec : es.filterMap Emission.record = patterns) :
    Hdb3eFollows (x ++ [b]) (Hdb3e.shift v u r).1 (es ++ [(Hdb3e.shift v u r).2]) where
  zrun := by rw [shift_zrun, hzrun]
  pol := by rw [shift_pol, hpol]
  pp := by rw [shift_pp, hpp, hnext]
  dl := by
    have hlen : u.dl.length ≤ 3 := by rw [hdl, length_rtake]; exact Nat.min_le_right ..
    rw [shift_dl v u r hlen, hdl, hnext, rtake_append_singleton]
  records := by
    rw [List.filterMap_append, hrec, hnext]
    cases r <;> simp

/-- One DATA of HDB3E does to the registers what one more bit does to `hdb3_encode` (R88). -/
theorem Hdb3eFollows.data {x : List Bit} {u : Hdb3e} {es : List Emission} (h : Hdb3eFollows x u es)
    (b : Bit) : Hdb3eFollows (x ++ [b]) (u.data b).1 (es ++ [(u.data b).2]) := by
  obtain ⟨hzrun, hpol, hpp, hdl, hrec⟩ := h
  have hgroup : u.zrun = 3#2 ↔ trailingZeros x % 4 = 3 := by
    rw [← hzrun, ← BitVec.toNat_inj]; rfl
  rcases hdb3e_data_cases b u with ⟨rfl, hd⟩ | ⟨rfl, hz, hd⟩ | ⟨rfl, hz, hp, hd⟩ | ⟨rfl, hz, hp, hd⟩ <;>
    rw [hd]
  case inl =>
    have hnext : hdb3Encode (x ++ [true]) =
        ((hdb3Encode x).1 ++ [u.pol.sample], (hdb3Encode x).2 ++ []) := by
      simp [hdb3Encode_snoc, hdb3Next, amiNext, hpol]
    exact hdb3eFollows_shift hnext (by simp [trailingZeros_snoc])
      (by simp [hpol, Polarity.afterMarks_succ])
      (by simp [hpp, ← Parity.of_succ, Nat.add_right_comm]) hdl hrec
  case inr.inl =>
    have hne : trailingZeros x % 4 ≠ 3 := fun h3 => hz (hgroup.mpr h3)
    have hnext : hdb3Encode (x ++ [false]) =
        ((hdb3Encode x).1 ++ [.zero], (hdb3Encode x).2 ++ []) := by
      simp [hdb3Encode_snoc, hdb3Next, amiNext, hne]
    exact hdb3eFollows_shift hnext (by simp [trailingZeros_snoc, hzrun]) (by simp [hpol])
      (by simp [hpp]) hdl hrec
  case inr.inr.inl =>
    have heven : (x.count true + (hdb3Encode x).2.length) % 2 = 0 :=
      Parity.of_eq_even.mp (hpp.symm.trans hp)
    have hnext : hdb3Encode (x ++ [false]) =
        ((hdb3Encode x).1.set ((hdb3Encode x).1.length - 3) .plus ++ [.minus],
          (hdb3Encode x).2 ++ [.even]) := by
      simp [hdb3Encode_snoc, hdb3Next, hgroup.mp hz, heven]
    exact hdb3eFollows_shift hnext (by simp [trailingZeros_snoc, Nat.add_mod, hgroup.mp hz])
      (by simp [hpol]) (by simp [← Nat.add_assoc, Parity.of_succ, ← hpp, hp, Parity.flip])
      (by rw [hdl, rtake_set]) hrec
  case inr.inr.inr =>
    have hodd : (x.count true + (hdb3Encode x).2.length) % 2 ≠ 0 := fun heven => by
      rw [Parity.of_eq_even.mpr heven, hp] at hpp; cases hpp
    have hnext : hdb3Encode (x ++ [false]) =
        ((hdb3Encode x).1 ++ [.plus], (hdb3Encode x).2 ++ [.odd]) := by
      simp [hdb3Encode_snoc, hdb3Next, hgroup.mp hz, hodd]
    exact hdb3eFollows_shift hnext (by simp [trailingZeros_snoc, Nat.add_mod, hgroup.mp hz])
      (by simp [hpol]) (by simp [← Nat.add_assoc, Parity.of_succ, ← hpp, hp, Parity.flip]) hdl hrec

/-- HDB3E right after START (42_hdb3_encoder.md R87). -/
def Hdb3e.opened : Hdb3e := { mode := .active, pol := .plus, zrun := 0#2, pp := .even, dl := [] }

theorem hdb3e_feed (x : List Bit) :
    Hdb3eFollows x (feed Hdb3e.data x Hdb3e.opened).1 (feed Hdb3e.data x Hdb3e.opened).2 := by
  induction x using List.reverseRecOn with
  | nil => exact ⟨rfl, rfl, rfl, rfl, rfl⟩
  | append_singleton x b ih => rw [feed_snoc]; exact ih.data b

theorem hdb3e_data_out_le (b : Bit) (u : Hdb3e) : (u.data b).2.out.length ≤ 3 := by
  obtain ⟨l, hl, h⟩ := hdb3e_data_out b u
  rw [h, List.length_map]; omega

/-- Settles O47: the registers of `Hdb3eFollows`, read through the responses. -/
theorem hdb3eRegistersAfterPartOfPass : Obligations.Hdb3eRegistersAfterPartOfPass := by
  intro x s
  obtain ⟨t, hrun, hresp, hmode, hregs⟩ :=
    run_partOfPass hdb3e_isDataRule x s (opened := .opened) rfl
  obtain ⟨hzrun, hpol, hpp, hdl, hrec⟩ := hdb3e_feed x
  rw [← hregs] at hzrun hpol hpp hdl
  refine ⟨t, _, hrun, hresp, hmode, ?_, hzrun, hpol, ?_, ?_⟩
  · rw [hdl, length_rtake, hdb3Encode_length]
  · rw [hpp, partResponses_records (feed_forall hdb3e_data_out_le x _), hrec]; rfl
  · have hdrop : x.length - min x.length 3 = x.length - 3 := by omega
    rw [hdl, hdrop, List.rtake, hdb3Encode_length]

end Sys2Proof.Machine
end

section
/-! # Commands to different units (20_memory.md R41 to R43)

What a unit holds and answers after another unit's command is what it holds and answers without it
(`command_after_other`). Two such commands can therefore be swapped (`command_comm`), and a list of
commands acts on a unit as the sublist of that unit's own commands does (`commands_own`). -/

namespace Sys2Proof.Machine

/-- Settles O11: with no input the first of `step_cases` is the only one left. -/
theorem idlePortLeavesMachineUnchanged : Obligations.IdlePortLeavesMachineUnchanged := by
  intro s hidle
  rcases step_cases s with ⟨-, hstep⟩ | ⟨x, rest, hinput, -⟩
  · exact hstep
  · rw [hidle] at hinput; cases hinput

theorem agreeOn_symm {u : UnitId} {a b : Block} (h : Block.agreeOn u a b = true) :
    Block.agreeOn u b a = true := by
  cases u <;> simp_all [Block.agreeOn]

/-- The five units are the whole block (10_state.md R16). -/
theorem block_eq_of_agreeOn {a b : Block} (h : ∀ u, Block.agreeOn u a b = true) : a = b := by
  obtain ⟨_, _, _, _, _⟩ := a
  obtain ⟨_, _, _, _, _⟩ := b
  simpa [Block.agreeOn] using And.intro (h .amie)
    (And.intro (h .hdb3e) (And.intro (h .hdb3d) (And.intro (h .dme) (h .dmd))))

/-- A command to another unit that came before is not seen. -/
theorem command_after_other {i j : Instr} (h : i.unit ≠ j.unit) (b : Block) :
    Block.agreeOn i.unit ((b.command j).1.command i).1 (b.command i).1 = true ∧
      ((b.command j).1.command i).2 = (b.command i).2 :=
  command_agree (command_frame j b i.unit h)

/-- Both orders leave unit `i.unit` as the command `i` alone does. -/
theorem command_comm_agreeOn {i j : Instr} (h : i.unit ≠ j.unit) (b : Block) :
    Block.agreeOn i.unit ((b.command i).1.command j).1 ((b.command j).1.command i).1 = true :=
  agreeOn_trans (command_frame j _ i.unit h) (agreeOn_symm (command_after_other h b).1)

/-- Commands to different units leave the same block in either order. -/
theorem command_comm {i j : Instr} (h : i.unit ≠ j.unit) (b : Block) :
    ((b.command i).1.command j).1 = ((b.command j).1.command i).1 := by
  refine block_eq_of_agreeOn fun u => ?_
  by_cases hi : u = i.unit
  · subst hi; exact command_comm_agreeOn h b
  by_cases hj : u = j.unit
  · subst hj; exact agreeOn_symm (command_comm_agreeOn h.symm b)
  · have hij : Block.agreeOn u ((b.command i).1.command j).1 b = true :=
      agreeOn_trans (command_frame j _ u hj) (command_frame i b u hi)
    have hji : Block.agreeOn u ((b.command j).1.command i).1 b = true :=
      agreeOn_trans (command_frame i _ u hi) (command_frame j b u hj)
    exact agreeOn_trans hij (agreeOn_symm hji)

/-- The commands of unit `u` among `is`, in order. -/
def ownCommands (u : UnitId) (is : List Instr) : List Instr := is.filter fun i => i.unit = u

/-- What was returned to the commands of unit `u`, `rs` being what was returned to each of `is`. -/
def ownReturns {α : Type} (u : UnitId) (is : List Instr) (rs : List α) : List α :=
  ((is.zip rs).filter fun p => p.1.unit = u).map Prod.snd

theorem ownReturns_map {α β : Type} (f : α → β) (u : UnitId) (is : List Instr) (rs : List α) :
    ownReturns u is (rs.map f) = (ownReturns u is rs).map f := by
  simp [ownReturns, List.zip_map_right, List.filter_map, Function.comp_def]

/-- From blocks that agree on unit `u`, a list of commands and the unit's own commands among them leave
blocks that agree on `u`, and `u` answers the same. -/
theorem commands_own (u : UnitId) (is : List Instr) {a b : Block}
    (h : Block.agreeOn u a b = true) :
    Block.agreeOn u (a.commands is).1 (b.commands (ownCommands u is)).1 = true ∧
      ownReturns u is (a.commands is).2 = (b.commands (ownCommands u is)).2 := by
  induction is generalizing a b with
  | nil => exact ⟨h, rfl⟩
  | cons i is ih =>
    by_cases hi : i.unit = u
    · subst hi
      obtain ⟨hblock, hanswer⟩ := command_agree h
      simpa [ownCommands, ownReturns, Block.commands, hanswer] using ih hblock
    · have hframe : Block.agreeOn u (a.command i).1 b = true :=
        agreeOn_trans (command_frame i a u (Ne.symm hi)) h
      simpa [ownCommands, ownReturns, Block.commands, hi] using ih hframe

/-- Settles O35: `command_comm` for two commands, `commands_own` for a list. -/
theorem commandsToDifferentUnitsCommute : Obligations.CommandsToDifferentUnitsCommute := by
  refine ⟨fun i j s h => ?_, fun u is s => ?_⟩
  · have hi := (command_after_other h s.block).2
    have hj := (command_after_other h.symm s.block).2
    exact ⟨_, _, _, _, answerWord (s.block.command i).2, answerWord (s.block.command j).2,
      exec_eq i s, exec_eq j _, exec_eq j s, exec_eq i _, command_comm h s.block,
      by simp [hj], by simp [hi]⟩
  · obtain ⟨hblock, hanswers⟩ := commands_own u is (agreeOn_refl u s.block)
    refine ⟨_, _, run_present is s, run_present (ownCommands u is) s, hblock, ?_⟩
    rw [List.drop_left, List.drop_left, ← hanswers]
    exact ownReturns_map answerWord u is _

end Sys2Proof.Machine
end

section
/-! # The encoding of commands (30_encoding.md R48 to R58)

The fields of a word determine it (`fieldsOf_injective`), and decoding inverts writing a command's fields
(`decodeFields_eq_ok_iff`). So the words that decode are the encodings (`decode_eq_ok_iff`), and a word is
`Illegal` exactly when its fields fail a test of R55 (`isIllegal_eq`). -/

namespace Sys2Proof

/-! ## The fields of a word (R48) -/

@[simp] theorem fieldsOf_unit_toNat (w : CommandWord) : (fieldsOf w).unit.toNat = w.toNat / 32 := by
  simp [fieldsOf, Nat.shiftRight_eq_div_pow]; omega

@[simp] theorem fieldsOf_op_toNat (w : CommandWord) : (fieldsOf w).op.toNat = w.toNat / 8 % 4 := by
  simp [fieldsOf, Nat.shiftRight_eq_div_pow]

@[simp] theorem fieldsOf_rsv_toNat (w : CommandWord) : (fieldsOf w).rsv.toNat = w.toNat / 4 % 2 := by
  simp [fieldsOf, Nat.shiftRight_eq_div_pow]

@[simp] theorem fieldsOf_pay_toNat (w : CommandWord) : (fieldsOf w).pay.toNat = w.toNat % 4 := by
  simp [fieldsOf]

/-- The four fields together are all the bits of a word. -/
theorem fieldsOf_injective {w w' : CommandWord} (h : fieldsOf w = fieldsOf w') : w = w' := by
  have hunit := congrArg (fun c => c.unit.toNat) h
  have hop := congrArg (fun c => c.op.toNat) h
  have hrsv := congrArg (fun c => c.rsv.toNat) h
  have hpay := congrArg (fun c => c.pay.toNat) h
  simp only [fieldsOf_unit_toNat, fieldsOf_op_toNat, fieldsOf_rsv_toNat, fieldsOf_pay_toNat]
    at hunit hop hrsv hpay
  exact BitVec.eq_of_toNat_eq (by omega)

/-! ## The fields of a command are those that pass the tests (R50, R51, R55) -/

/-- A code has a unit exactly when it is that unit's code. -/
theorem unitOfCode_eq_some_iff {x : BitVec 3} {u : UnitId} : unitOfCode x = some u ↔ x = u.code := by
  have hcode : ∀ x, (unitOfCode x).all (fun u => x = u.code) = true := by decide
  exact ⟨fun h => by simpa [h] using hcode x, fun h => h ▸ unitOfCode_code u⟩

/-- A code has an operation exactly when it is that operation's code. -/
theorem operationOfCode_eq_some_iff {x : BitVec 2} {op : Operation} :
    operationOfCode x = some op ↔ x = op.code := by
  have hcode : ∀ x, (operationOfCode x).all (fun op => x = op.code) = true := by decide
  exact ⟨fun h => by simpa [h] using hcode x, fun h => h ▸ operationOfCode_code op⟩

theorem unitOk_iff (c : Cmd8) : c.unitOk = true ↔ ∃ u : UnitId, c.unit = u.code := by
  have hsome : ∀ x : BitVec 3, decide (x ≤ 4#3) = (unitOfCode x).isSome := by decide
  simp only [Cmd8.unitOk, hsome, Option.isSome_iff_exists, unitOfCode_eq_some_iff]

theorem opOk_iff (c : Cmd8) : c.opOk = true ↔ ∃ op : Operation, c.op = op.code := by
  have hsome : ∀ x : BitVec 2, decide (x ≠ 3#2) = (operationOfCode x).isSome := by decide
  simp only [Cmd8.opOk, hsome, Option.isSome_iff_exists, operationOfCode_eq_some_iff]

theorem operationCode_eq_data {op : Operation} : op.code = 1#2 ↔ op = .data := by
  cases op <;> decide

/-- A command written from its parts; START and END have no room for a payload (R48). -/
theorem fields_commandOf {u : UnitId} {op : Operation} {pay : SymbolCode}
    (h : op = .data ∨ pay = 0#2) :
    (commandOf u op pay).fields = { unit := u.code, op := op.code, rsv := 0#1, pay := pay } := by
  cases op with
  | data => cases u <;> rfl
  | start | close =>
    obtain rfl : pay = 0#2 := by simpa using h
    cases u <;> rfl

/-- Every term of `Instr` is well formed: START and END carry no payload. -/
theorem instr_wf (i : Instr) : i.wf = true := by
  have hunit : i.fields.unitOk = true := (unitOk_iff _).mpr ⟨i.unit, rfl⟩
  have hop : i.fields.opOk = true := (opOk_iff _).mpr ⟨i.operation, rfl⟩
  have hpay : i.fields.payOk = true := by
    by_cases h : i.operation = .data
    · simp [Cmd8.payOk, Instr.fields, operationCode_eq_data, h]
    · simp [Cmd8.payOk, Instr.fields, payload_eq_zero h]
  have hrsv : i.fields.rsvOk = true := rfl
  simp [Instr.wf, Cmd8.wf, hunit, hop, hrsv, hpay]

/-- The fields that pass the four tests are the fields of the commands. -/
theorem wf_iff_fields (c : Cmd8) : c.wf = true ↔ ∃ i : Instr, c = i.fields := by
  constructor
  · obtain ⟨unit, op, rsv, pay⟩ := c
    simp only [Cmd8.wf, Bool.and_eq_true, unitOk_iff, opOk_iff, Cmd8.rsvOk, Cmd8.payOk,
      decide_eq_true_iff, Bool.or_eq_true]
    rintro ⟨⟨⟨⟨u, rfl⟩, ⟨op, rfl⟩⟩, rfl⟩, hpay⟩
    exact ⟨commandOf u op pay, (fields_commandOf (hpay.imp_left operationCode_eq_data.mp)).symm⟩
  · rintro ⟨i, rfl⟩
    exact instr_wf i

/-! ## Decoding (R55) -/

theorem decodeFields_fields (i : Instr) : decodeFields i.fields = .ok i := by
  rw [← fieldsOf_encode]; exact decode_encode i

/-- Decoding drops no bit of the fields: what decodes to `i` is what `i` is written in. -/
theorem decodeFields_eq_ok_iff (c : Cmd8) (i : Instr) : decodeFields c = .ok i ↔ c = i.fields := by
  constructor
  · obtain ⟨unit, op, rsv, pay⟩ := c
    intro h
    unfold decodeFields at h
    split at h
    · cases h
    next u hu =>
    split at h
    · cases h
    next o ho =>
    split at h
    · cases h
    next hrsv =>
    split at h
    · cases h
    next hpay =>
    cases h
    obtain rfl := unitOfCode_eq_some_iff.mp hu
    obtain rfl := operationOfCode_eq_some_iff.mp ho
    obtain rfl : rsv = 0#1 := (BitVec.eq_zero_or_eq_one rsv).resolve_right hrsv
    rw [fields_commandOf (by simpa [or_iff_not_imp_left] using hpay)]
  · rintro rfl
    exact decodeFields_fields i

/-- The words that decode are the encodings of the commands. -/
theorem decode_eq_ok_iff (w : CommandWord) (i : Instr) : decode w = .ok i ↔ w = encode i := by
  rw [decode, decodeFields_eq_ok_iff, ← fieldsOf_encode]
  exact ⟨fieldsOf_injective, congrArg fieldsOf⟩

theorem isIllegal_eq_false_iff (w : CommandWord) : isIllegal w = false ↔ ∃ i, decode w = .ok i := by
  unfold isIllegal
  cases decode w <;> simp

/-- The `Illegal` words are those whose fields fail one of the four tests. -/
theorem isIllegal_eq (w : CommandWord) : isIllegal w = !(fieldsOf w).wf := by
  have h : isIllegal w = false ↔ (fieldsOf w).wf = true := by
    simp only [isIllegal_eq_false_iff, decode, decodeFields_eq_ok_iff, wf_iff_fields]
  cases hw : (fieldsOf w).wf <;> simp_all

/-- The four tests of R55 on the bits of the word. -/
theorem fieldsOf_wf_iff (w : CommandWord) : (fieldsOf w).wf = true ↔
    w.toNat / 32 ≤ 4 ∧ w.toNat / 8 % 4 ≠ 3 ∧ w.toNat / 4 % 2 = 0 ∧
      (w.toNat / 8 % 4 = 1 ∨ w.toNat % 4 = 0) := by
  simp [Cmd8.wf, Cmd8.unitOk, Cmd8.opOk, Cmd8.rsvOk, Cmd8.payOk, BitVec.le_def, ← BitVec.toNat_inj,
    and_assoc]

theorem isIllegal_iff (w : CommandWord) : isIllegal w = true ↔
    (4 < w.toNat / 32 ∨ w.toNat / 8 % 4 = 3 ∨ w.toNat / 4 % 2 = 1 ∨
      (w.toNat / 8 % 4 ≠ 1 ∧ w.toNat % 4 ≠ 0)) := by
  rw [isIllegal_eq, Bool.not_eq_true', ← Bool.not_eq_true, fieldsOf_wf_iff]
  omega

/-- Settles O1: `decode_eq_ok_iff` in both directions, every command being well formed. -/
theorem decodeAndEncodeAgree : Obligations.DecodeAndEncodeAgree :=
  ⟨fun i _ => decode_encode i,
    fun w i h => ⟨instr_wf i, ((decode_eq_ok_iff w i).mp h).symm⟩⟩

end Sys2Proof
end

section
/-! # The command map and the reserved words (30_encoding.md R55, R57, R58) -/

namespace Sys2Proof.Machine

/-! ## What an `Illegal` word and a DATA out of its pass do -/

/-- An `Illegal` word is taken off the port and answered 0x0004 (60_exceptions.md R114). -/
theorem step_of_isIllegal {s : State} {w : CommandWord} {rest : List HostInput}
    (hin : s.input = .command w :: rest) (hill : isIllegal w = true) :
    step s = .next { block := s.block, input := rest, responses := s.responses ++ [0x0004#16] } := by
  unfold step
  rw [takeInput_cons hin]
  cases hw : decode w with
  | error e => simp only [hw]; rfl
  | ok i => simp [(isIllegal_eq_false_iff w).mpr ⟨i, hw⟩] at hill

/-- Out of a pass the mode gate answers a DATA before its payload is looked at (40_dispatch.md R62). -/
theorem gateData_of_ne_active {u : UnitId} {b : Block} (h : b.mode u ≠ .active)
    (a a' : Option (Block × Emission)) : b.gateData u a = b.gateData u a' := by
  unfold Block.gateData
  cases hm : b.mode u with
  | active => exact absurd hm h
  | idle | error => rfl

/-- Settles O2: `isIllegal_iff` for the four tests, and `decodeFields_eq_ok_iff` to read a decoded command's
fields off its word. -/
theorem decodeTestsTheFields : Obligations.DecodeTestsTheFields := by
  refine ⟨isIllegal_iff, fun w i h => ?_, fun u pay => decode_encode _, fun u s pay pay' hm => ?_,
    fun s w rest => step_of_isIllegal⟩
  · have hfields : fieldsOf w = i.fields := (decodeFields_eq_ok_iff _ i).mp h
    rw [← fieldsOf_unit_toNat, ← fieldsOf_op_toNat, ← fieldsOf_pay_toNat, hfields]
    exact ⟨rfl, rfl, rfl⟩
  · simp only [exec_eq, Block.command, dataOf_operation, dataOf_unit, dataOf_payload]
    rw [gateData_of_ne_active hm]

/-! ## The map of 30 words (R57) -/

/-- A fact about every command is one about START, DATA and END of every unit. -/
theorem instr_forall {p : Instr → Prop} (hstart : ∀ u, p (startOf u))
    (hdata : ∀ u pay, p (dataOf u pay)) (hclose : ∀ u, p (endOf u)) (i : Instr) : p i := by
  rw [← commandOf_fields i]
  cases i.operation with
  | start => exact hstart _
  | data => exact hdata _ _
  | close => exact hclose _

theorem isIllegal_of_ne_encode {w : CommandWord} (h : ∀ i, w ≠ encode i) : isIllegal w = true := by
  rw [← Bool.not_eq_false, isIllegal_eq_false_iff]
  exact fun ⟨i, hi⟩ => h i ((decode_eq_ok_iff w i).mp hi)

/-- Settles O3: the rows by evaluation, and the words outside the map because every command's encoding is
in it. -/
theorem commandMapOfThirtyWords : Obligations.CommandMapOfThirtyWords := by
  unfold Obligations.CommandMapOfThirtyWords
  intro map spelled
  have hmem : ∀ i, encode i ∈ map.map Prod.fst := by
    refine instr_forall (fun u => ?_) (fun u pay => ?_) (fun u => ?_)
    · cases u <;> decide
    · revert pay; cases u <;> decide
    · cases u <;> decide
  have hrow : ∀ row ∈ map, row.1 = encode row.2 := by decide
  refine ⟨fun row h => (decode_eq_ok_iff _ _).mpr (hrow row h), by decide, fun w hw => ?_,
    by decide, by decide, by decide, by decide, by decide⟩
  exact isIllegal_of_ne_encode fun i hi => hw (hi ▸ hmem i)

/-! ## The reserved words (R58) -/

/-- The list of all 256 words holds every word. -/
theorem mem_map_ofNat_range (w : CommandWord) : w ∈ (List.range 256).map (BitVec.ofNat 8) :=
  List.mem_map.mpr ⟨w.toNat, List.mem_range.mpr w.isLt, by simp⟩

/-- 30 words decode (R57), and the other 226 of the 256 are `Illegal`. -/
theorem countP_isIllegal : ((List.range 256).map (BitVec.ofNat 8)).countP isIllegal = 226 := by
  generalize hall : (List.range 256).map (BitVec.ofNat 8) = all
  have hlength : all.length = 256 := by simp [← hall]
  have hthirty : all.countP (fun w => ¬ isIllegal w) = 30 := by
    rw [← hall, List.countP_eq_length_filter]; decide
  have hsplit := List.length_eq_countP_add_countP isIllegal (l := all)
  omega

/-- Settles O4: the lists by counting, and membership from the four tests of `isIllegal_iff`, of which
each kind takes the words that pass the earlier ones. -/
theorem reservedWordsAreIllegal : Obligations.ReservedWordsAreIllegal := by
  unfold Obligations.ReservedWordsAreIllegal
  intro all unit op rsv pay reservedUnit reservedOp reservedBit strayPay
  refine ⟨by decide, by decide, by decide, by decide, by decide, fun w => ?_, countP_isIllegal,
    fun s w rest => step_of_isIllegal⟩
  have hall : w ∈ all := mem_map_ofNat_range w
  simp only [reservedUnit, reservedOp, reservedBit, strayPay, unit, op, rsv, pay, List.mem_append,
    List.mem_filter, hall, isIllegal_iff, Bool.and_eq_true, Bool.or_eq_true, decide_eq_true_iff,
    true_and, ne_eq]
  omega

end Sys2Proof.Machine
end

section
/-! # Symbol codes and the response word (30_encoding.md R52 to R54, R56, R59) -/

namespace Sys2Proof

/-- Settles O6: reading a symbol's code gives the symbol, and the codes outside an alphabet give none. -/
theorem symbolCodesAreTwosComplement : Obligations.SymbolCodesAreTwosComplement := by
  refine ⟨fun x => ?_, sampleSymbol_code, rfl, dmSymbol_code, rfl, rfl, bitSymbol_code, fun b => ?_,
    rfl, rfl⟩
  · cases x <;> rfl
  · cases b <;> rfl

theorem toNat_append_eq_add {m n : Nat} (x : BitVec m) (y : BitVec n) :
    (x ++ y).toNat = 2 ^ n * x.toNat + y.toNat := by
  rw [BitVec.toNat_append, ← Nat.shiftLeft_add_eq_or_of_lt y.isLt, Nat.shiftLeft_eq, Nat.mul_comm]

/-- The response word as a number: each field of R59 at the weight of its lowest bit. -/
theorem responseWord_toNat (st : Status) (out : List SymbolCode) (r : Option Pattern) :
    (responseWord st { out := out, record := r }).toNat =
      st.code.toNat + 8 * (out.length % 4) + 32 * (recordValid r).toNat
        + 64 * (recordPattern r).toNat + 256 * (out.getD 0 0#2).toNat
        + 1024 * (out.getD 1 0#2).toNat + 4096 * (out.getD 2 0#2).toNat := by
  simp only [responseWord, symbolSlot, toNat_append_eq_add, BitVec.toNat_ofNat]
  omega

theorem recordValid_toNat (r : Option Pattern) :
    (recordValid r).toNat = if r = none then 0 else 1 := by
  rcases r with _ | _ <;> rfl

theorem recordPattern_toNat (r : Option Pattern) :
    (recordPattern r).toNat = if r = some .odd then 1 else 0 := by
  rcases r with _ | _ | _ <;> rfl

/-- Settles O5: the fields are the digits of `responseWord_toNat`, and the read-back is
`read_responseWord`. -/
theorem responseFieldsStandWhereR59Says : Obligations.ResponseFieldsStandWhereR59Says := by
  intro st out r hlen
  obtain ⟨hsymbols, hrecord, -⟩ := read_responseWord st { out := out, record := r } hlen
  have hword := responseWord_toNat st out r
  have hstatus := st.code.isLt
  have hvalid := (recordValid r).isLt
  have hpattern := (recordPattern r).isLt
  have hsym0 := (out.getD 0 0#2).isLt
  have hsym1 := (out.getD 1 0#2).isLt
  have hsym2 := (out.getD 2 0#2).isLt
  rw [← recordValid_toNat, ← recordPattern_toNat]
  refine ⟨?_, ?_, ?_, ?_, ?_, ?_, ?_, ?_, ?_, hsymbols, hrecord, statusOf_responseWord ..⟩ <;> omega

end Sys2Proof
end

section
/-! # The assembler (30_encoding.md R60, R61)

A line is cut into tokens (`assembleLine_token`, `assembleLine_token_token`), a mnemonic token names its
unit and directive (`readMnemonic_mnemonicText`), and the directive says which words the line gives
(`assembleTokens_mnemonic`). -/

namespace Sys2Proof

/-! ## Tokens of a line -/

/-- The text is one token of a line: not empty, with no blank, tab or comment sign. -/
def isToken (t : List Char) : Bool :=
  !t.isEmpty && t.all fun c => c ≠ ' ' && c ≠ '\t' && c ≠ ';'

theorem isToken_iff (t : List Char) :
    isToken t = true ↔ t ≠ [] ∧ ∀ c ∈ t, (c ≠ ' ' ∧ c ≠ '\t') ∧ c ≠ ';' := by
  simp [isToken]

theorem withoutComment_eq_self {line : List Char} (h : ∀ c ∈ line, c ≠ ';') :
    withoutComment line = line :=
  List.takeWhile_eq_self_iff.mpr fun c hc => decide_eq_true (h c hc)

/-- A stretch without blanks is read into the current token. -/
theorem cutTokens_append {t : List Char} (h : ∀ c ∈ t, c ≠ ' ' ∧ c ≠ '\t')
    (current rest : List Char) :
    cutTokens current (t ++ rest) = cutTokens (t.reverse ++ current) rest := by
  induction t generalizing current with
  | nil => rfl
  | cons c t ih =>
    obtain ⟨⟨hblank, htab⟩, ht⟩ := List.forall_mem_cons.mp h
    rw [List.cons_append, cutTokens, if_neg (by simp [hblank, htab]), ih ht, List.reverse_cons,
      List.append_assoc, List.singleton_append]

theorem cutTokens_token {t : List Char} (h : isToken t = true) : cutTokens [] t = [t] := by
  obtain ⟨hne, hchars⟩ := (isToken_iff t).mp h
  simpa [cutTokens, hne] using cutTokens_append (fun c hc => (hchars c hc).1) [] []

theorem cutTokens_token_blank {t : List Char} (h : isToken t = true) (rest : List Char) :
    cutTokens [] (t ++ ' ' :: rest) = t :: cutTokens [] rest := by
  obtain ⟨hne, hchars⟩ := (isToken_iff t).mp h
  rw [cutTokens_append fun c hc => (hchars c hc).1]
  simp [cutTokens, hne]

theorem assembleLine_token {t : List Char} (h : isToken t = true) :
    assembleLine t = assembleTokens [t] := by
  obtain ⟨-, hchars⟩ := (isToken_iff t).mp h
  rw [assembleLine, withoutComment_eq_self fun c hc => (hchars c hc).2, cutTokens_token h]

theorem assembleLine_token_token {t t' : List Char} (h : isToken t = true) (h' : isToken t' = true) :
    assembleLine (t ++ ' ' :: t') = assembleTokens [t, t'] := by
  obtain ⟨-, hchars⟩ := (isToken_iff t).mp h
  obtain ⟨-, hchars'⟩ := (isToken_iff t').mp h'
  have hcomment : ∀ c ∈ t ++ ' ' :: t', c ≠ ';' := by
    rw [List.forall_mem_append, List.forall_mem_cons]
    exact ⟨fun c hc => (hchars c hc).2, by decide, fun c hc => (hchars' c hc).2⟩
  rw [assembleLine, withoutComment_eq_self hcomment, cutTokens_token_blank h, cutTokens_token h']

/-! ## Mnemonics (R60, R61) -/

theorem isToken_mnemonicText (u : UnitId) (d : Directive) : isToken (mnemonicText u d) = true := by
  cases u <;> rcases d with (_ | _ | _) | _ | _ <;> rfl

/-- The mnemonics are told apart, and none is `.word`. -/
theorem readMnemonic_mnemonicText (u : UnitId) (d : Directive) :
    mnemonicText u d ≠ ".word".toList ∧ readMnemonic (mnemonicText u d) = some (u, d) := by
  cases u <;> rcases d with (_ | _ | _) | _ | _ <;> decide

/-- The words of a line whose first token is a mnemonic (R60, R61). -/
def directiveWords (u : UnitId) (d : Directive) (operands : List (List Char)) :
    Option (List CommandWord) :=
  match d with
  | .operation .start => if operands = [] then some [encode (startOf u)] else none
  | .operation .close => if operands = [] then some [encode (endOf u)] else none
  | .operation .data =>
    match operands with
    | [t] => (operandCode u t).map fun c => [encode (dataOf u c)]
    | _ => none
  | .feed => feedWords u operands
  | .pass => (feedWords u operands).map fun ws => encode (startOf u) :: ws ++ [encode (endOf u)]

theorem assembleTokens_mnemonic (u : UnitId) (d : Directive) (operands : List (List Char)) :
    assembleTokens (mnemonicText u d :: operands) = directiveWords u d operands := by
  obtain ⟨hword, hread⟩ := readMnemonic_mnemonicText u d
  unfold assembleTokens
  dsimp only
  rw [if_neg hword, hread]
  cases d with
  | feed | pass => rfl
  | operation op =>
    cases op with
    | start | close => rfl
    | data => rcases operands with _ | ⟨t, _ | _⟩ <;> rfl

theorem assembleTokens_start (u : UnitId) :
    assembleTokens [mnemonicText u (.operation .start)] = some [encode (startOf u)] := by
  simp [assembleTokens_mnemonic, directiveWords]

theorem assembleTokens_close (u : UnitId) :
    assembleTokens [mnemonicText u (.operation .close)] = some [encode (endOf u)] := by
  simp [assembleTokens_mnemonic, directiveWords]

theorem assembleTokens_data (u : UnitId) (t : List Char) :
    assembleTokens [mnemonicText u (.operation .data), t] =
      (operandCode u t).map fun c => [encode (dataOf u c)] :=
  assembleTokens_mnemonic u (.operation .data) [t]

/-! ## Operands (R60) -/

/-- The spelling of a symbol is one token, and it is read as the symbol's code. -/
theorem operandCode_operandText {u : UnitId} {pay : SymbolCode} {t : List Char}
    (h : operandText u pay = some t) : isToken t = true ∧ operandCode u t = some pay := by
  have hall : ∀ pay, (operandText u pay).all
      (fun t => isToken t && operandCode u t = some pay) = true := by
    cases u <;> decide
  simpa [h] using hall pay

/-- The operands of a unit's DATA with the symbols they spell (R60). -/
def operandTable : UnitId → List (List Char × SymbolCode)
  | .amie | .hdb3e | .dme => [(['0'], 0#2), (['1'], 1#2)]
  | .hdb3d => [(['0'], 0#2), (['+', '1'], 1#2), (['1'], 1#2), (['-', '1'], 3#2)]
  | .dmd => [(['+', '1'], 1#2), (['-', '1'], 3#2)]

theorem mem_operandTable {u : UnitId} {t : List Char} {pay : SymbolCode}
    (h : operandCode u t = some pay) : (t, pay) ∈ operandTable u := by
  cases u <;> simp only [operandCode] at h <;> split_ifs at h <;> cases h <;>
    simp_all [operandTable]

/-- An operand spells a symbol of the unit's alphabet only (R56). -/
theorem validPayload_of_operandCode {u : UnitId} {t : List Char} {pay : SymbolCode}
    (h : operandCode u t = some pay) : validPayload u pay = true := by
  have hrow : ∀ row ∈ operandTable u, validPayload u row.2 = true := by cases u <;> decide
  exact hrow _ (mem_operandTable h)

/-! ## `.word` (R60) -/

theorem hexChar_ne_separator {n : Nat} (h : n < 16) :
    hexChar n ≠ ' ' ∧ hexChar n ≠ '\t' ∧ hexChar n ≠ ';' := by
  revert n; decide

/-- The two digits of a word are read back as the word. -/
theorem wordLiteral_digits (w : CommandWord) :
    wordLiteral ['0', 'x', hexChar (w.toNat / 16), hexChar (w.toNat % 16)] = some w := by
  have hhigh : w.toNat / 16 < 16 := by omega
  have hlow : w.toNat % 16 < 16 := by omega
  simp only [wordLiteral, hexDigit_hexChar _ hhigh, hexDigit_hexChar _ hlow, Nat.div_add_mod,
    BitVec.ofNat_toNat, BitVec.setWidth_eq]

theorem assembleLine_wordText (w : CommandWord) : assembleLine (wordText w) = some [w] := by
  have hhigh := hexChar_ne_separator (n := w.toNat / 16) (by omega)
  have hlow := hexChar_ne_separator (n := w.toNat % 16) (by omega)
  have hliteral : isToken ['0', 'x', hexChar (w.toNat / 16), hexChar (w.toNat % 16)] = true := by
    simp [isToken, hhigh, hlow]
  calc assembleLine (wordText w)
      = assembleTokens [".word".toList,
          ['0', 'x', hexChar (w.toNat / 16), hexChar (w.toNat % 16)]] :=
        assembleLine_token_token (t := ".word".toList) (by decide) hliteral
    _ = some [w] := by simp [assembleTokens, wordLiteral_digits]

/-! ## The spelling of a command (R60) -/

theorem assembleLine_spelling (i : Instr) : assembleLine (spelling i) = some [encode i] := by
  have hi := commandOf_fields i
  unfold spelling
  cases hop : i.operation with
  | start =>
    rw [hop] at hi
    rw [assembleLine_token (isToken_mnemonicText _ _), assembleTokens_start]
    exact congrArg (fun j => some [encode j]) hi
  | close =>
    rw [hop] at hi
    rw [assembleLine_token (isToken_mnemonicText _ _), assembleTokens_close]
    exact congrArg (fun j => some [encode j]) hi
  | data =>
    rw [hop] at hi
    cases htext : operandText i.unit i.payload with
    | none => exact assembleLine_wordText (encode i)
    | some t =>
      obtain ⟨htoken, hcode⟩ := operandCode_operandText htext
      simp only [assembleLine_token_token (isToken_mnemonicText _ _) htoken, assembleTokens_data,
        hcode, Option.map_some]
      exact congrArg (fun j => some [encode j]) hi

/-- Settles O55: `assembleLine_spelling` and `assembleLine_wordText`; a DATA is what its operand spells. -/
theorem spellingAssemblesToWord : Obligations.SpellingAssemblesToWord := by
  refine ⟨assembleLine_spelling, assembleLine_wordText, fun u t h => ?_, fun u pay t h => ⟨?_, ?_⟩⟩
  · rw [assembleTokens_data, h]; rfl
  · rw [assembleTokens_data, h]; rfl
  · exact validPayload_of_operandCode h

/-! ## FEED and PASS (R61) -/

/-- Where every element of `l` spells, the list spells their readings in order. -/
theorem mapM_map_eq_some {α β γ : Type} {f : β → Option γ} {g : α → β} {r : α → γ} {l : List α}
    (h : ∀ a ∈ l, f (g a) = some (r a)) : (l.map g).mapM f = some (l.map r) := by
  induction l with
  | nil => rfl
  | cons a l ih =>
    obtain ⟨ha, hl⟩ := List.forall_mem_cons.mp h
    simp [ha, ih hl]

/-- The units that take bits: their operands may be written run together (R61). -/
theorem feedOperand_encoder {u : UnitId} (hu : u = .amie ∨ u = .hdb3e ∨ u = .dme) {t : List Char}
    (ht : t ≠ []) : feedOperand u t = t.mapM fun c => operandCode u [c] := by
  rcases hu with rfl | rfl | rfl <;> simp [feedOperand, ht]

theorem operandCode_bit {u : UnitId} (hu : u = .amie ∨ u = .hdb3e ∨ u = .dme) (b : Bit) :
    operandCode u [if b then '1' else '0'] = some (bitCode b) := by
  rcases hu with rfl | rfl | rfl <;> cases b <;> rfl

/-- An operand of DATA is an operand of FEED, for the one symbol. -/
theorem feedOperand_of_operandCode {u : UnitId} {t : List Char} {pay : SymbolCode}
    (h : operandCode u t = some pay) : feedOperand u t = some [pay] := by
  cases u with
  | hdb3d | dmd => simp [feedOperand, h]
  | amie | hdb3e | dme =>
    obtain ⟨c, rfl⟩ : ∃ c, t = [c] := by
      have hmem := mem_operandTable h
      simp only [operandTable, List.mem_cons, Prod.mk.injEq] at hmem
      rcases hmem with ⟨ht, -⟩ | ⟨ht, -⟩ | hnil
      · exact ⟨'0', ht⟩
      · exact ⟨'1', ht⟩
      · cases hnil
    simp [feedOperand, h]

theorem feedWords_of_feedOperand {α : Type} {u : UnitId} {x : List α} {text : α → List Char}
    {pays : α → List SymbolCode} (h : ∀ a ∈ x, feedOperand u (text a) = some (pays a)) :
    feedWords u (x.map text) = some ((x.flatMap pays).map fun c => encode (dataOf u c)) := by
  rw [feedWords, mapM_map_eq_some h, Option.map_some, List.flatMap_def]

/-- Settles O56: the words of FEED from its operands, and those of PASS around them. -/
theorem pseudoInstructionsExpand : Obligations.PseudoInstructionsExpand := by
  refine ⟨fun u x hx => ?_, fun u bits hu hbits => ?_, fun u operands ws h => ?_, fun u => ?_,
    by decide, by decide⟩
  · have hfeed : feedWords u (x.map Prod.fst) = some (x.map fun p => encode (dataOf u p.2)) := by
      rw [feedWords_of_feedOperand (pays := fun p => [p.2])
        fun p hp => feedOperand_of_operandCode (hx p hp), ← List.map_eq_flatMap, List.map_map]
      rfl
    simp [assembleTokens_mnemonic, directiveWords, hfeed, Machine.passOf]
  · have hoperand : feedOperand u (bits.map fun b => if b then '1' else '0') =
        some (bits.map bitCode) := by
      rw [feedOperand_encoder hu (by simpa using hbits)]
      exact mapM_map_eq_some fun b _ => operandCode_bit hu b
    simp [assembleTokens_mnemonic, directiveWords, feedWords, hoperand]
  · rw [assembleTokens_mnemonic] at h ⊢
    simp only [directiveWords] at h ⊢
    rw [h]; rfl
  · rw [assembleTokens_mnemonic]; rfl

end Sys2Proof
end

section
/-! # The step and START (40_dispatch.md R62, R63) -/

namespace Sys2Proof.Machine

/-- Settles O7: the input is there to be taken, and it decodes. -/
theorem stepRunsDecodedCommand : Obligations.StepRunsDecodedCommand := by
  intro s w rest i hin hdec _
  unfold step
  rw [takeInput_cons hin]
  simp only [hdec]

/-- Settles O12, by the cases of a step: an `Illegal` word and a command each append one response. -/
theorem everyStepCompletes : Obligations.EveryStepCompletes := by
  intro s
  rcases step_cases s with
    ⟨hidle, h⟩ | ⟨x, rest, hin, ⟨rfl, h⟩ | ⟨w, e, rfl, -, h⟩ | ⟨w, i, rfl, -, h⟩⟩
  · refine ⟨_, h, fun w rest hin => ?_⟩
    rw [hidle] at hin; cases hin
  · refine ⟨_, h, fun w rest' hin' => ?_⟩
    rw [hin] at hin'; cases hin'
  · refine ⟨_, h, fun w' rest' hin' => ?_⟩
    rw [hin] at hin'; cases hin'
    exact ⟨rfl, _, illegalCommand_responses _⟩
  · refine ⟨_, h, fun w' rest' hin' => ?_⟩
    rw [hin] at hin'; cases hin'
    exact ⟨rfl, _, reply_responses ..⟩

/-- START overwrites what an earlier START wrote: twice is as once. -/
theorem command_startOf_twice (u : UnitId) (b : Block) :
    ((b.command (startOf u)).1.command (startOf u)).1 = (b.command (startOf u)).1 := by
  have hframe := command_frame (startOf u) b
  simp only [command_start (startOf_operation u), startOf_unit] at hframe ⊢
  exact fresh_setMode_eq hframe .active

theorem answerWord_ok_none : answerWord (.ok, .none) = 0x0000#16 := by decide

/-- Settles O28: START by `command_start`, the other units by `command_frame`. -/
theorem startRestartsInEveryMode : Obligations.StartRestartsInEveryMode := by
  unfold Obligations.StartRestartsInEveryMode
  intro fresh u s
  have hstart := command_start (b := s.block) (startOf_operation u)
  refine ⟨_, _, exec_eq _ s, ?_, fun v hv => ?_, rfl, ?_, exec_eq _ _, command_startOf_twice u s.block⟩
  · rw [reply_block, hstart, startOf_unit]
    cases u <;> rfl
  · exact command_frame (startOf u) s.block v (by rwa [startOf_unit])
  · rw [reply_responses, hstart, answerWord_ok_none]

end Sys2Proof.Machine
end

section
/-! # How many symbols a command emits (40_dispatch.md R66) -/

namespace Sys2Proof.Machine

/-- The symbols an accepted DATA of unit `u` emits (R66). -/
def Block.dataCount (u : UnitId) (b : Block) : Nat :=
  match u with
  | .amie => 1
  | .hdb3e => if b.hdb3e.dl.length = 3 then 1 else 0
  | .hdb3d => if b.hdb3d.buf.length = 3 then 1 else 0
  | .dme => 2
  | .dmd => if b.dmd.half = none then 0 else 1

/-- The symbols the END of an open pass of unit `u` emits (R66). -/
def Block.endCount (u : UnitId) (b : Block) : Nat :=
  match u with
  | .hdb3e => b.hdb3e.dl.length
  | .hdb3d => b.hdb3d.buf.length
  | .amie | .dme | .dmd => 0

/-- The symbols a command answered with OK emits (R66). -/
def Block.count (i : Instr) (b : Block) : Nat :=
  match i.operation with
  | .start => 0
  | .data => b.dataCount i.unit
  | .close => b.endCount i.unit

theorem shift_out_length (v : Sample) (u : Hdb3e) (r : Option Pattern) :
    (Hdb3e.shift v u r).2.out.length = if u.dl.length = 3 then 1 else 0 := by
  unfold Hdb3e.shift
  by_cases h : u.dl.length = 3 <;> simp [h]

/-- A DATA of HDB3E emits exactly when the delay line is full (42_hdb3_encoder.md R88). -/
theorem hdb3e_data_out_length (x : Bit) (u : Hdb3e) :
    (u.data x).2.out.length = if u.dl.length = 3 then 1 else 0 := by
  rcases hdb3e_data_cases x u with ⟨_, h⟩ | ⟨_, _, h⟩ | ⟨_, _, _, h⟩ | ⟨_, _, _, h⟩ <;>
    simp [h, shift_out_length]

/-- A DATA of HDB3D emits exactly when three samples wait (43_hdb3_decoder.md R96). -/
theorem hdb3d_data_out_length (x : Sample) (u : Hdb3d) :
    (u.data x).2.out.length = if u.buf.length = 3 then 1 else 0 := by
  by_cases h : u.buf.length = 3
  · obtain ⟨a, b, c, hbuf⟩ := List.length_eq_three.mp h
    by_cases hw : a = .zero ∧ b = .zero ∧ c = .zero
    · obtain ⟨rfl, rfl, rfl⟩ := hw
      rw [hdb3d_data_window x u hbuf, hbuf]; rfl
    · rw [hdb3d_data_single x a b c u hbuf hw, hbuf]; rfl
  · simp [Hdb3d.data, h, Emission.none]

/-- A DATA of DMD emits exactly when a half pair waits (45_dm_decoder.md R110). -/
theorem dmd_data_out_length (x : Sample) (u : Dmd) :
    (u.data x).2.out.length = if u.half = none then 0 else 1 := by
  rcases h : u.half with _ | y
  · rw [dmd_data_first x u h]; rfl
  · rw [dmd_data_second x y u h]; split <;> rfl

theorem hdb3d_data_record (x : Sample) (u : Hdb3d) : (u.data x).2.record = none := by
  simp only [Hdb3d.data, Hdb3d.decide]
  split
  · split <;> rfl
  · rfl

theorem dmd_data_record (x : Sample) (u : Dmd) : (u.data x).2.record = none := by
  rcases h : u.half with _ | y
  · rw [dmd_data_first x u h]; rfl
  · rw [dmd_data_second x y u h]; split <;> rfl

theorem data_count {u : UnitId} {pay : SymbolCode} {b b' : Block} {e : Emission}
    (hd : b.data u pay = some (b', e)) : e.out.length = b.dataCount u := by
  cases u <;> obtain ⟨x, -, hb'⟩ := Option.map_eq_some_iff.mp hd <;> cases hb'
  case amie => exact amie_data_out_length x b.amie
  case hdb3e => exact hdb3e_data_out_length x b.hdb3e
  case hdb3d => exact hdb3d_data_out_length x b.hdb3d
  case dme => exact dme_data_out_length x b.dme
  case dmd => exact dmd_data_out_length x b.dmd

theorem finish_count (u : UnitId) (b : Block) :
    (b.finish u).2.2.out.length = b.endCount u := by
  cases u with
  | amie | dme | dmd => rfl
  | hdb3e => exact List.length_map ..
  | hdb3d => exact List.length_map ..

theorem endCount_setMode (u : UnitId) (m : Mode) (b : Block) :
    (b.setMode u m).endCount u = b.endCount u := by
  cases u <;> rfl

/-- END of the one unit that may return another status than OK, DMD, emits nothing (R111). -/
theorem endCount_of_finish_ne_ok {u : UnitId} {b b' : Block} (h : (b.finish u).2.1 ≠ .ok) :
    b'.endCount u = 0 := by
  cases u with
  | amie | dme | dmd => rfl
  | hdb3e | hdb3d => exact absurd rfl h

/-- What a command emits, counted (R66). -/
theorem command_count (i : Instr) (b : Block) :
    (b.command i).2.2.out.length = if (b.command i).2.1 ≠ .ok then 0 else b.count i := by
  have hran := command_ran i b
  generalize b.command i = a at hran ⊢
  unfold Block.count
  cases hran with
  | started hop => simp [hop, Emission.none]
  | rejected | abortedData | abortedEnd | invalid => rfl
  | accepted b' e hop hm hd => simpa [hop] using data_count hd
  | closed hop hm =>
    rw [finish_count, endCount_setMode, hop]
    split
    next hne => exact endCount_of_finish_ne_ok hne
    next => rfl

/-- A record is on the response of a DATA of HDB3E (R66). -/
theorem data_record {u : UnitId} {pay : SymbolCode} {b b' : Block} {e : Emission}
    (hd : b.data u pay = some (b', e)) (hu : u ≠ .hdb3e) : e.record = none := by
  cases u <;> obtain ⟨x, -, hb'⟩ := Option.map_eq_some_iff.mp hd <;> cases hb'
  case amie => exact amie_data_record x b.amie
  case hdb3e => exact absurd rfl hu
  case hdb3d => exact hdb3d_data_record x b.hdb3d
  case dme => exact dme_data_record x b.dme
  case dmd => exact dmd_data_record x b.dmd

theorem finish_record (u : UnitId) (b : Block) : (b.finish u).2.2.record = none := by
  cases u <;> rfl

theorem command_record (i : Instr) (b : Block) (h : (b.command i).2.2.record ≠ none) :
    i.unit = .hdb3e ∧ i.operation = .data := by
  have hran := command_ran i b
  generalize b.command i = a at hran h
  cases hran with
  | started | rejected | abortedData | abortedEnd | invalid => exact absurd rfl h
  | accepted b' e hop hm hd => exact ⟨by_contra fun hu => h (data_record hd hu), hop⟩
  | closed => exact absurd (finish_record ..) h

theorem status_code_eq_ok {st : Status} : st.code = Status.ok.code ↔ st = .ok := by
  cases st <;> decide

/-- Settles O36: COUNT and the record read back from the response, counted by `command_count` and placed
by `command_record`. -/
theorem outputCountsFollowTable : Obligations.OutputCountsFollowTable := by
  intro i s hinv
  obtain ⟨-, hrecord, hcount⟩ :=
    read_responseWord (s.block.command i).2.1 _ (command_answerOk i hinv).1
  refine ⟨_, responseWord (s.block.command i).2.1 (s.block.command i).2.2, exec_eq i s, rfl, ?_, ?_⟩
  · rw [hcount, command_count, statusOf_responseWord]
    simp only [ne_eq, status_code_eq_ok]
    cases i <;> rfl
  · rw [hrecord]
    exact command_record i s.block

end Sys2Proof.Machine
end

section
/-! # The exchanges of a run (40_dispatch.md R62, R67)

A run over any command words, `Illegal` ones too, is the block's answers in turn (`run_presentWords`). -/

namespace Sys2Proof.Machine

/-- The block after the command word `w`, with the status and the emission of its response; an `Illegal`
word changes nothing (60_exceptions.md R114). -/
def Block.answer (w : CommandWord) (b : Block) : Block × Status × Emission :=
  match decode w with
  | .ok i => b.command i
  | .error _ => (b, .illegalCommand, .none)

theorem answer_ok {w : CommandWord} {i : Instr} (h : decode w = .ok i) (b : Block) :
    b.answer w = b.command i := by
  simp only [Block.answer, h]

theorem answer_error {w : CommandWord} {e : DecodeError} (h : decode w = .error e) (b : Block) :
    b.answer w = (b, .illegalCommand, .none) := by
  simp only [Block.answer, h]

@[simp] theorem answer_encode (i : Instr) (b : Block) : b.answer (encode i) = b.command i :=
  answer_ok (decode_encode i) b

theorem step_presentWords_cons (w : CommandWord) (ws : List CommandWord) (s : State) :
    step (s.presentWords (w :: ws)) = .next ((s.reply (s.block.answer w)).presentWords ws) := by
  unfold step
  rw [takeInput_cons (s := s.presentWords (w :: ws)) (x := .command w)
    (rest := ws.map HostInput.command ++ s.input) rfl]
  cases hw : decode w with
  | ok i => simp only [hw, exec_eq, answer_ok hw]; rfl
  | error e => simp only [hw, answer_error hw]; rfl

/-- The block after the words `ws`, and the exchanges they make. -/
def Block.converse : List CommandWord → Block → Block × List Exchange
  | [], b => (b, [])
  | w :: ws, b =>
    (((b.answer w).1.converse ws).1,
      { word := w, response := answerWord (b.answer w).2 } :: ((b.answer w).1.converse ws).2)

/-- A run over presented words makes the block's exchanges. -/
theorem run_presentWords (ws : List CommandWord) (s : State) :
    Host.Core.run Sys2Proof.core ws.length (s.presentWords ws) =
      .next { block := (s.block.converse ws).1, input := s.input,
              responses := s.responses ++ (s.block.converse ws).2.map Exchange.response } := by
  induction ws generalizing s with
  | nil => simp [State.presentWords, Block.converse]
  | cons w ws ih =>
    rw [List.length_cons, run_succ _ (step_presentWords_cons w ws s), ih]
    simp [Block.converse]

theorem zipWith_converse (ws : List CommandWord) (b : Block) :
    List.zipWith Exchange.mk ws ((b.converse ws).2.map Exchange.response) = (b.converse ws).2 := by
  induction ws generalizing b with
  | nil => rfl
  | cons w ws ih => simp [Block.converse, ih]

/-- The exchanges read off a run are those the block made. -/
theorem exchanges_run (ws : List CommandWord) {s t : State}
    (h : t.responses = s.responses ++ (s.block.converse ws).2.map Exchange.response) :
    exchanges ws s t = (s.block.converse ws).2 := by
  rw [exchanges, h, List.drop_left, zipWith_converse]

theorem converse_append (ws ws' : List CommandWord) (b : Block) :
    (b.converse (ws ++ ws')).2 =
      (b.converse ws).2 ++ ((b.converse ws).1.converse ws').2 := by
  induction ws generalizing b with
  | nil => rfl
  | cons w ws ih => simp [Block.converse, ih]

/-- Words of commands are answered as the commands are. -/
theorem converse_encode (is : List Instr) (b : Block) :
    (b.converse (is.map encode)).1 = (b.commands is).1 ∧
      (b.converse (is.map encode)).2.map Exchange.response = (b.commands is).2.map answerWord := by
  induction is generalizing b with
  | nil => exact ⟨rfl, rfl⟩
  | cons i is ih => simpa [Block.converse, Block.commands] using ih (b.command i).1

/-! ## A pass in a run is a pass on its own (R67) -/

/-- The exchanges when the commands `is` are presented to the block `b`. -/
def Block.exchangesOf (is : List Instr) (b : Block) : List Exchange := (b.converse (is.map encode)).2

theorem exchangesOf_cons (i : Instr) (is : List Instr) (b : Block) :
    b.exchangesOf (i :: is) =
      { word := encode i, response := answerWord (b.command i).2 } ::
        (b.command i).1.exchangesOf is := by
  simp [Block.exchangesOf, Block.converse]

theorem passBody_error {u : UnitId} {w : CommandWord} {err : DecodeError} (h : decode w = .error err)
    (r : ResponseWord) (rest : List Exchange) :
    passBody u ({ word := w, response := r } :: rest) = passBody u rest := by
  simp only [passBody, h]

theorem passBody_other {u : UnitId} {w : CommandWord} {i : Instr} (h : decode w = .ok i)
    (hu : i.unit ≠ u) (r : ResponseWord) (rest : List Exchange) :
    passBody u ({ word := w, response := r } :: rest) = passBody u rest := by
  simp only [passBody, h, if_pos hu]

theorem passBody_start {w : CommandWord} {i : Instr} (h : decode w = .ok i)
    (hop : i.operation = .start) (r : ResponseWord) (rest : List Exchange) :
    passBody i.unit ({ word := w, response := r } :: rest) =
      { exchanges := [], ending := .abandoned } := by
  simp [passBody, h, hop]

theorem passBody_data {w : CommandWord} {i : Instr} (h : decode w = .ok i)
    (hop : i.operation = .data) (r : ResponseWord) (rest : List Exchange) :
    passBody i.unit ({ word := w, response := r } :: rest) =
      { exchanges := { word := w, response := r } :: (passBody i.unit rest).exchanges,
        ending := (passBody i.unit rest).ending } := by
  simp [passBody, h, hop]

/-- The first END that is not rejected closes the pass. -/
theorem passBody_close {w : CommandWord} {i : Instr} (h : decode w = .ok i)
    (hop : i.operation = .close) {r : ResponseWord}
    (hr : statusOf r ≠ Status.sequenceError.code) (rest : List Exchange) :
    passBody i.unit ({ word := w, response := r } :: rest) =
      { exchanges := [{ word := w, response := r }], ending := .closed } := by
  simp [passBody, h, hop, hr]

theorem eq_dataOf {i : Instr} {u : UnitId} (hu : i.unit = u) (hop : i.operation = .data) :
    i = dataOf u i.payload := by
  have h := commandOf_fields i
  rw [hu, hop] at h
  exact h.symm

theorem eq_endOf {i : Instr} {u : UnitId} (hu : i.unit = u) (hop : i.operation = .close) :
    i = endOf u := by
  have h := commandOf_fields i
  rw [hu, hop] at h
  exact h.symm

@[simp] theorem endOf_unit (u : UnitId) : (endOf u).unit = u := by cases u <;> rfl

@[simp] theorem endOf_operation (u : UnitId) : (endOf u).operation = .close := by cases u <;> rfl

/-- DATA never takes its unit to IDLE (10_state.md R21). -/
theorem data_keeps_open {i : Instr} {b : Block} (hop : i.operation = .data)
    (hm : b.mode i.unit ≠ .idle) : (b.command i).1.mode i.unit ≠ .idle := by
  intro hidle
  rcases command_mode i b (by rw [hidle]; exact hm.symm) with ⟨h, -⟩ | ⟨h, -⟩ | ⟨-, -, -, h⟩
  · simp [hop] at h
  · simp [hop] at h
  · simp [hidle] at h

/-- While its unit is not IDLE a command is not answered with SEQUENCE_ERROR (60_exceptions.md R115). -/
theorem command_ne_sequenceError {i : Instr} {b : Block} (hm : b.mode i.unit ≠ .idle) :
    (b.command i).2.1 ≠ .sequenceError := by
  have hran := command_ran i b
  generalize b.command i = a at hran
  cases hran with
  | started | abortedData | abortedEnd | invalid | accepted => simp
  | rejected hop hidle => exact absurd hidle hm
  | closed =>
    cases i.unit with
    | amie | hdb3e | hdb3d | dme => simp [Block.finish]
    | dmd => simp only [Block.finish, Dmd.finish]; split <;> simp

theorem statusOf_answerWord_ne {a : Status × Emission} (h : a.1 ≠ .sequenceError) :
    statusOf (answerWord a) ≠ Status.sequenceError.code := by
  rw [answerWord, statusOf_responseWord]
  cases hst : a.1 with
  | sequenceError => exact absurd hst h
  | ok | invalidSymbol | malformedSignal | illegalCommand | aborted => decide

/-- What is left of a pass that ends closed is DATA and an END to its unit, answered as if the host had
presented nothing else. -/
theorem passBody_closed {u : UnitId} (ws : List CommandWord) {a b : Block}
    (hagree : Block.agreeOn u a b = true) (hopen : a.mode u ≠ .idle)
    (hclosed : (passBody u (a.converse ws).2).ending = .closed) :
    ∃ x : List SymbolCode,
      (passBody u (a.converse ws).2).exchanges = b.exchangesOf (x.map (dataOf u) ++ [endOf u]) := by
  induction ws generalizing a b with
  | nil => cases hclosed
  | cons w ws ih =>
    rw [Block.converse] at hclosed ⊢
    cases hw : decode w with
    | error err =>
      rw [passBody_error hw, answer_error hw] at hclosed ⊢
      exact ih hagree hopen hclosed
    | ok i =>
      rw [answer_ok hw] at hclosed ⊢
      by_cases hu : i.unit = u
      · subst hu
        obtain ⟨hagree', hanswer⟩ := command_agree hagree
        obtain rfl := (decode_eq_ok_iff w i).mp hw
        cases hop : i.operation with
        | start => rw [passBody_start hw hop] at hclosed; cases hclosed
        | data =>
          rw [passBody_data hw hop] at hclosed ⊢
          obtain ⟨x, hx⟩ := ih hagree' (data_keeps_open hop hopen) hclosed
          refine ⟨i.payload :: x, ?_⟩
          rw [List.map_cons, List.cons_append, exchangesOf_cons, ← eq_dataOf rfl hop, ← hanswer, hx]
        | close =>
          have hstatus := statusOf_answerWord_ne (command_ne_sequenceError hopen)
          refine ⟨[], ?_⟩
          rw [passBody_close hw hop hstatus, List.map_nil, List.nil_append, exchangesOf_cons,
            ← eq_endOf rfl hop, ← hanswer]
          rfl
      · rw [passBody_other hw hu] at hclosed ⊢
        have hframe := command_frame i a u (Ne.symm hu)
        exact ih (agreeOn_trans hframe hagree) (by rwa [agreeOn_mode hframe]) hclosed

/-- Each closed pass in a run is the pass its unit would have had alone: START, DATA with some payloads, END
(R67). -/
theorem passesOf_closed {u : UnitId} (ws : List CommandWord) (b : Block) {p : Pass}
    (hp : p ∈ passesOf u (b.converse ws).2) (hclosed : p.ending = .closed) :
    ∃ (x : List SymbolCode) (a : Block), p.exchanges = a.exchangesOf (passOf u x) := by
  induction ws generalizing b with
  | nil => cases hp
  | cons w ws ih =>
    rw [Block.converse, passesOf] at hp
    cases hw : decode w with
    | error err =>
      simp only [hw] at hp
      exact ih _ hp
    | ok i =>
      simp only [hw, answer_ok hw] at hp
      split at hp
      next hi =>
        subst hi
        rcases List.mem_cons.mp hp with rfl | hp
        · have hopen : (b.command (startOf u)).1.mode u ≠ .idle := by
            simp [command_start (startOf_operation u)]
          obtain ⟨x, hx⟩ := passBody_closed ws (agreeOn_refl u _) hopen hclosed
          refine ⟨x, b, ?_⟩
          simp only [hx, passOf, List.cons_append, exchangesOf_cons, (decode_eq_ok_iff w _).mp hw]
        · exact ih _ hp
      next => exact ih _ hp

/-! ## The accepted symbols of a pass on its own -/

theorem acceptedPayload_encode (i : Instr) (r : ResponseWord) :
    acceptedPayload { word := encode i, response := r } =
      if i.operation = .data ∧ statusOf r = Status.ok.code then some i.payload else none := by
  simp [acceptedPayload]

/-- DATA that all return OK are the pass's input. -/
theorem acceptedPayload_data {u : UnitId} (x : List SymbolCode) (b : Block)
    (hok : ∀ e ∈ b.exchangesOf (x.map (dataOf u)), statusOf e.response = Status.ok.code) :
    (b.exchangesOf (x.map (dataOf u))).filterMap acceptedPayload = x := by
  induction x generalizing b with
  | nil => rfl
  | cons pay x ih =>
    rw [List.map_cons, exchangesOf_cons, List.forall_mem_cons] at hok
    obtain ⟨hhead, htail⟩ := hok
    rw [List.map_cons, exchangesOf_cons, List.filterMap_cons_some (b := pay), ih _ htail]
    simpa [acceptedPayload_encode] using hhead

/-- DATA that all return OK to an open pass carried symbols of the unit's alphabet
(30_encoding.md R56). -/
theorem validPayload_data {u : UnitId} (x : List SymbolCode) {b : Block} (hm : b.mode u = .active)
    (hok : ∀ e ∈ b.exchangesOf (x.map (dataOf u)), statusOf e.response = Status.ok.code) :
    ∀ pay ∈ x, validPayload u pay = true := by
  induction x generalizing b with
  | nil => simp
  | cons pay x ih =>
    rw [List.map_cons, exchangesOf_cons, List.forall_mem_cons] at hok
    obtain ⟨hhead, htail⟩ := hok
    rw [answerWord, statusOf_responseWord, status_code_eq_ok] at hhead
    cases hd : b.data u pay with
    | none =>
      have hcommand : b.command (dataOf u pay) = (b.setMode u .error, .invalidSymbol, .none) := by
        simp [Block.command, Block.gateData, hm, hd]
      simp [hcommand] at hhead
    | some accepted =>
      obtain ⟨b', e⟩ := accepted
      have hcommand : b.command (dataOf u pay) = (b', .ok, e) :=
        command_data_active (by simp) (by simpa using hm) (by simpa using hd)
      rw [hcommand] at htail
      refine List.forall_mem_cons.mpr ⟨?_, ih ((data_frame hd).1.trans hm) htail⟩
      rw [← data_isSome u pay b, hd]; rfl

end Sys2Proof.Machine
end

section
/-! # A pass on its own outputs its unit's reference function (40_dispatch.md R68)

A pass of valid symbols is answered as its unit's DATA rule emits, END with what is left
(`commands_passOf`). For each unit what is emitted then is the reference function of the symbols
(`PassFollowsReference`). -/

namespace Sys2Proof

/-! ## Reading symbols off payloads (30_encoding.md R52 to R54) -/

theorem exists_bitCode : ∀ pay, (bitSymbol pay).isSome = true → ∃ x, bitCode x = pay := by decide

theorem exists_sampleCode (pay : SymbolCode) (h : (sampleSymbol pay).isSome = true) :
    ∃ x : Sample, x.code = pay := by
  have hcode : ∀ pay, (sampleSymbol pay).all (fun x => x.code = pay) = true := by decide
  obtain ⟨x, hx⟩ := Option.isSome_iff_exists.mp h
  exact ⟨x, by simpa [hx] using hcode pay⟩

theorem exists_polarityCode (pay : SymbolCode) (h : (dmSymbol pay).isSome = true) :
    ∃ p : Polarity, p.sample.code = pay := by
  have hcode : ∀ pay, dmSymbol pay = none ∨ pay = Polarity.plus.sample.code ∨
      pay = Polarity.minus.sample.code := by decide
  rcases hcode pay with hnone | hplus | hminus
  · simp [hnone] at h
  · exact ⟨.plus, hplus.symm⟩
  · exact ⟨.minus, hminus.symm⟩

/-- What holds of the codes of all lists of symbols holds of a list of payloads in the alphabet. -/
theorem exists_map_of_valid {α : Type} {valid : SymbolCode → Prop} {code : α → SymbolCode}
    (hcode : ∀ pay, valid pay → ∃ x, code x = pay) {x : List SymbolCode} (h : ∀ pay ∈ x, valid pay) :
    ∃ xs : List α, xs.map code = x := by
  have hmem : x ∈ Set.range (List.map code) := by
    rw [Set.range_list_map]
    exact fun pay hpay => hcode pay (h pay hpay)
  exact hmem

theorem filterMap_bitSymbol (xs : List Bit) : (xs.map bitCode).filterMap bitSymbol = xs := by
  simp [List.filterMap_map, bitSymbol_code]

theorem filterMap_sampleSymbol (xs : List Sample) :
    (xs.map Sample.code).filterMap sampleSymbol = xs := by
  simp [List.filterMap_map, sampleSymbol_code]

theorem filterMap_dmSymbol (xs : List Polarity) :
    (xs.map fun p => p.sample.code).filterMap dmSymbol = xs.map Polarity.sample := by
  simp [List.filterMap_map, dmSymbol_code]

/-! ## The references at the end of a signal -/

/-- Samples too few for a window are decoded on their own (43_hdb3_decoder.md R91, R97). -/
theorem hdb3Decode_short (l : List Sample) (h : l.length ≤ 3) :
    hdb3Decode l = l.map Machine.sampleBit := by
  match l, h with
  | [], _ => rfl
  | [a], _ => cases a <;> rfl
  | [a, b], _ => cases a <;> cases b <;> rfl
  | [a, b, c], _ => cases a <;> cases b <;> cases c <;> rfl

/-- A last unpaired sample is ignored (45_dm_decoder.md R106). -/
theorem dmDecodeFrom_dropLast (st : Polarity) (l : List Sample) (h : l.length % 2 = 1) :
    dmDecodeFrom st l.dropLast = dmDecodeFrom st l := by
  match l with
  | [] => rfl
  | [x] => rfl
  | [x, y] => simp at h
  | x :: y :: z :: l =>
    have hrest : (z :: l).length % 2 = 1 := by simp only [List.length_cons] at h ⊢; omega
    simp only [List.dropLast_cons_cons, dmDecodeFrom, dmDecodeFrom_dropLast _ (z :: l) hrest]

end Sys2Proof

namespace Sys2Proof.Machine

/-! ## The answers to a pass -/

theorem commands_append (is js : List Instr) (b : Block) :
    (b.commands (is ++ js)).2 = (b.commands is).2 ++ ((b.commands is).1.commands js).2 := by
  induction is generalizing b with
  | nil => rfl
  | cons i is ih => simp [Block.commands, ih]

/-- What END returns does not depend on MODE. -/
theorem finish_setMode (u : UnitId) (m : Mode) (b : Block) :
    ((b.setMode u m).finish u).2 = (b.finish u).2 := by
  cases u with
  | amie | hdb3e | hdb3d | dme => rfl
  | dmd => simp only [Block.finish, Block.setMode, Dmd.finish]; cases b.dmd.half <;> rfl

theorem command_endOf_active {u : UnitId} {b : Block} (hm : b.mode u = .active) :
    (b.command (endOf u)).2 = (b.finish u).2 := by
  simp [Block.command, Block.gateEnd, hm, finish_setMode]

/-- A pass of valid symbols, from every block: START and DATA return OK, DATA with what the unit's rule
emits, and END finishes with the registers they leave (R63 to R65). -/
theorem commands_passOf {α U : Type} {u : UnitId} {get : Block → U} {pay : α → SymbolCode}
    {data : α → U → U × Emission} (hdata : IsDataRule u get pay data) (xs : List α) (b : Block)
    {opened : U} (hopened : get ((b.fresh u).setMode u .active) = opened) :
    ∃ last : Block, get last = (feed data xs opened).1 ∧
      (b.commands (passOf u (xs.map pay))).2 =
        (.ok, .none) :: (feed data xs opened).2.map (fun e => (.ok, e)) ++ [(last.finish u).2] := by
  subst hopened
  obtain ⟨hmode, hregs, hanswers⟩ :=
    commands_feed hdata xs (b := (b.fresh u).setMode u .active) (mode_setMode ..)
  refine ⟨_, hregs, ?_⟩
  rw [passOf, List.map_map, List.cons_append, Block.commands, command_start (startOf_operation u),
    startOf_unit, commands_append, Function.comp_def, hanswers]
  simp only [Block.commands, command_endOf_active hmode, List.cons_append]

/-- What a pass with input `x` emits: `es` on its DATA, `last` the answer to its END. -/
structure PassFollowsReference (u : UnitId) (x : List SymbolCode) (es : List Emission)
    (last : Status × Emission) : Prop where
  output : es.flatMap Emission.out ++ last.2.out = referenceOutput u x
  records : es.filterMap Emission.record = referenceRecords u x
  short : ∀ e ∈ es, e.out.length ≤ 3
  last_short : last.2.out.length ≤ 3
  last_record : last.2.record = none
  status : last.1 = if u = .dmd ∧ x.length % 2 = 1 then .malformedSignal else .ok

/-! ## AMIE and DME -/

theorem amie_feed_out (xs : List Bit) (u : Amie) :
    (feed Amie.data xs u).2.flatMap Emission.out = (amiEncodeFrom u.pol xs).map Sample.code := by
  induction xs generalizing u with
  | nil => rfl
  | cons x xs ih => cases x <;> simp [feed, Amie.data, Emission.symbols, amiEncodeFrom, ih]

theorem amie_follows (xs : List Bit) (m : Mode) (b : Block) :
    PassFollowsReference .amie (xs.map bitCode) (feed Amie.data xs ⟨m, .plus⟩).2
      (b.finish .amie).2 where
  output := by
    rw [amie_feed_out, referenceOutput, filterMap_bitSymbol]
    exact List.append_nil _
  records := List.filterMap_eq_nil_iff.mpr (feed_forall amie_data_record xs _)
  short := feed_forall (fun x u => by simp) xs _
  last_short := Nat.zero_le 3
  last_record := rfl
  status := rfl

theorem dme_feed_out (xs : List Bit) (u : Dme) :
    (feed Dme.data xs u).2.flatMap Emission.out = (dmEncodeFrom u.st xs).map Sample.code := by
  induction xs generalizing u with
  | nil => rfl
  | cons x xs ih => cases x <;> simp [feed, Dme.data, Emission.symbols, dmEncodeFrom, ih]

theorem dme_follows (xs : List Bit) (m : Mode) (b : Block) :
    PassFollowsReference .dme (xs.map bitCode) (feed Dme.data xs ⟨m, .plus⟩).2
      (b.finish .dme).2 where
  output := by
    rw [dme_feed_out, referenceOutput, filterMap_bitSymbol]
    exact List.append_nil _
  records := List.filterMap_eq_nil_iff.mpr (feed_forall dme_data_record xs _)
  short := feed_forall (fun x u => by simp) xs _
  last_short := Nat.zero_le 3
  last_record := rfl
  status := rfl

/-! ## HDB3D -/

theorem hdb3d_follows (xs : List Sample) (m : Mode) {b : Block}
    (hb : b.hdb3d = (feed Hdb3d.data xs ⟨m, []⟩).1) :
    PassFollowsReference .hdb3d (xs.map Sample.code) (feed Hdb3d.data xs ⟨m, []⟩).2
      (b.finish .hdb3d).2 := by
  obtain ⟨hlen, bits, consumed, hout, -, hdec⟩ := hdb3d_feed_decided xs ⟨m, []⟩ (Nat.zero_le 3)
  rw [← hb] at hlen hdec
  have hall : hdb3Decode xs = bits ++ b.hdb3d.buf.map sampleBit := by
    simpa [hdb3Decode_short _ hlen] using hdec []
  exact {
    output := by
      rw [hout, referenceOutput, filterMap_sampleSymbol, hall, List.map_append, List.map_map]
      rfl
    records := List.filterMap_eq_nil_iff.mpr (feed_forall hdb3d_data_record xs _)
    short := feed_forall hdb3d_data_out_le xs _
    last_short := by simpa [Block.finish, Hdb3d.flush, Emission.symbols] using hlen
    last_record := rfl
    status := rfl }

/-! ## DMD -/

theorem dmd_feed_out (xs : List Polarity) (m : Mode) (st : Polarity) :
    (feed (fun p => Dmd.data p.sample) xs ⟨m, st, none⟩).2.flatMap Emission.out =
      (dmDecodeFrom st (xs.map Polarity.sample)).map bitCode := by
  match xs with
  | [] => rfl
  | [p] => rfl
  | p :: q :: xs =>
    simp only [feed, dmd_data_first p.sample ⟨m, st, none⟩ rfl,
      dmd_data_second q.sample p.sample ⟨m, st, some p.sample⟩ rfl, List.map_cons, dmDecodeFrom]
    split <;> simp [Emission.none, Emission.symbols, dmd_feed_out xs]

theorem dmd_follows (xs : List Polarity) (m : Mode) {b : Block}
    (hb : b.dmd = (feed (fun p => Dmd.data p.sample) xs ⟨m, .plus, none⟩).1) :
    PassFollowsReference .dmd (xs.map fun p => p.sample.code)
      (feed (fun p => Dmd.data p.sample) xs ⟨m, .plus, none⟩).2 (b.finish .dmd).2 where
  output := by
    rw [dmd_feed_out, referenceOutput, filterMap_dmSymbol]
    exact List.append_nil _
  records := List.filterMap_eq_nil_iff.mpr (feed_forall (fun p => dmd_data_record p.sample) xs _)
  short := feed_forall (fun p => dmd_data_out_le p.sample) xs _
  last_short := Nat.zero_le 3
  last_record := rfl
  status := by
    have hhalf := (dmd_feed xs m).half
    rw [← hb] at hhalf
    simp only [Block.finish, true_and, List.length_map]
    split at hhalf
    next hodd =>
      have hne : xs ≠ [] := by rintro rfl; simp at hodd
      rw [List.getLast?_eq_some_getLast hne] at hhalf
      rw [dmd_finish_some _ _ hhalf, if_pos hodd]
    next heven => rw [dmd_finish_none _ hhalf, if_neg heven]

/-! ## HDB3E -/

/-- What leaves the delay line and what is then in it are the line and the new sample. -/
theorem shift_line (v : Sample) (u : Hdb3e) (r : Option Pattern) :
    (Hdb3e.shift v u r).2.out ++ (Hdb3e.shift v u r).1.dl.map Sample.code =
      (u.dl ++ [v]).map Sample.code := by
  unfold Hdb3e.shift
  dsimp only
  split
  · rw [← List.map_append, ← List.drop_one, List.take_append_drop]
  · rfl

theorem set_eq_take_append (l : List Sample) {k : Nat} (hk : k ≤ l.length) (v : Sample) :
    l.set k v = l.take k ++ (l.drop k).set 0 v := by
  conv_lhs => rw [← List.take_append_drop k l]
  rw [List.set_append_right _ _ (by simp), List.length_take, Nat.min_eq_left hk, Nat.sub_self]

/-- One DATA of HDB3E leaves behind the delay line what one more bit leaves of the signal. -/
theorem Hdb3eFollows.data_line {x : List Bit} {u : Hdb3e} {es : List Emission}
    (h : Hdb3eFollows x u es) (b : Bit) :
    ((hdb3Encode x).1.rdrop 3).map Sample.code ++
        ((u.data b).2.out ++ (u.data b).1.dl.map Sample.code) =
      (hdb3Encode (x ++ [b])).1.map Sample.code := by
  obtain ⟨hzrun, hpol, hpp, hdl, -⟩ := h
  have hgroup : u.zrun = 3#2 ↔ trailingZeros x % 4 = 3 := by
    rw [← hzrun, ← BitVec.toNat_inj]; rfl
  have hparity : u.pp = .even ↔ (x.count true + (hdb3Encode x).2.length) % 2 = 0 := by
    rw [hpp, Parity.of_eq_even]
  have hline : (hdb3Encode x).1 = (hdb3Encode x).1.rdrop 3 ++ u.dl := by
    rw [hdl]; exact (List.take_append_drop ..).symm
  have hset : (hdb3Encode x).1.set ((hdb3Encode x).1.length - 3) .plus =
      (hdb3Encode x).1.rdrop 3 ++ u.dl.set 0 .plus := by
    rw [hdl]; exact set_eq_take_append _ (Nat.sub_le ..) _
  rw [hdb3Encode_snoc, hdb3Next]
  rcases hdb3e_data_cases b u with ⟨rfl, hd⟩ | ⟨rfl, hz, hd⟩ | ⟨rfl, hz, hp, hd⟩ | ⟨rfl, hz, hp, hd⟩ <;>
    rw [hd, shift_line, ← List.map_append, ← List.append_assoc]
  · simp [amiNext, hpol, ← hline]
  · simp [amiNext, mt hgroup.mpr hz, ← hline]
  · simp [hgroup.mp hz, hparity.mp hp, hset]
  · have hodd : ¬ (x.count true + (hdb3Encode x).2.length) % 2 = 0 := by simp [← hparity, hp]
    simp [hgroup.mp hz, hodd, ← hline]

/-- A pass of HDB3E has emitted its signal up to the delay line (10_state.md R33, 42_hdb3_encoder.md R90). -/
theorem hdb3e_feed_out (xs : List Bit) :
    (feed Hdb3e.data xs Hdb3e.opened).2.flatMap Emission.out ++
        (feed Hdb3e.data xs Hdb3e.opened).1.dl.map Sample.code =
      (hdb3Encode xs).1.map Sample.code := by
  induction xs using List.reverseRecOn with
  | nil => rfl
  | append_singleton xs x ih =>
    have hfollows := hdb3e_feed xs
    have hout : (feed Hdb3e.data xs Hdb3e.opened).2.flatMap Emission.out =
        ((hdb3Encode xs).1.rdrop 3).map Sample.code := by
      refine List.append_cancel_right (bs := (feed Hdb3e.data xs Hdb3e.opened).1.dl.map Sample.code) ?_
      rw [ih, hfollows.dl, ← List.map_append]
      exact congrArg _ (List.take_append_drop ..).symm
    rw [feed_snoc, List.flatMap_append, hout, ← hfollows.data_line x]
    simp

theorem hdb3e_follows (xs : List Bit) {b : Block}
    (hb : b.hdb3e = (feed Hdb3e.data xs Hdb3e.opened).1) :
    PassFollowsReference .hdb3e (xs.map bitCode) (feed Hdb3e.data xs Hdb3e.opened).2
      (b.finish .hdb3e).2 where
  output := by
    rw [referenceOutput, filterMap_bitSymbol, ← hdb3e_feed_out, ← hb]; rfl
  records := by rw [(hdb3e_feed xs).records, referenceRecords, filterMap_bitSymbol]
  short := feed_forall hdb3e_data_out_le xs _
  last_short := by
    have hlen : b.hdb3e.dl.length ≤ 3 := by
      rw [hb, (hdb3e_feed xs).dl, length_rtake]; exact Nat.min_le_right ..
    simpa [Block.finish, Hdb3e.flush, Emission.symbols] using hlen
  last_record := rfl
  status := rfl

/-! ## All five units -/

/-- A pass of valid symbols, from every block, outputs its unit's reference function of them. -/
theorem passOf_follows {u : UnitId} {x : List SymbolCode} (hx : ∀ pay ∈ x, validPayload u pay = true)
    (b : Block) :
    ∃ (es : List Emission) (last : Status × Emission),
      (b.commands (passOf u x)).2 = (.ok, .none) :: es.map (fun e => (.ok, e)) ++ [last] ∧
        PassFollowsReference u x es last := by
  cases u with
  | amie =>
    obtain ⟨xs, rfl⟩ := exists_map_of_valid exists_bitCode hx
    obtain ⟨last, -, h⟩ := commands_passOf amie_isDataRule xs b (opened := ⟨.active, .plus⟩) rfl
    exact ⟨_, _, h, amie_follows xs .active last⟩
  | hdb3e =>
    obtain ⟨xs, rfl⟩ := exists_map_of_valid exists_bitCode hx
    obtain ⟨last, hlast, h⟩ := commands_passOf hdb3e_isDataRule xs b (opened := .opened) rfl
    exact ⟨_, _, h, hdb3e_follows xs hlast⟩
  | hdb3d =>
    obtain ⟨xs, rfl⟩ := exists_map_of_valid exists_sampleCode hx
    obtain ⟨last, hlast, h⟩ := commands_passOf hdb3d_isDataRule xs b (opened := ⟨.active, []⟩) rfl
    exact ⟨_, _, h, hdb3d_follows xs .active hlast⟩
  | dme =>
    obtain ⟨xs, rfl⟩ := exists_map_of_valid exists_bitCode hx
    obtain ⟨last, -, h⟩ := commands_passOf dme_isDataRule xs b (opened := ⟨.active, .plus⟩) rfl
    exact ⟨_, _, h, dme_follows xs .active last⟩
  | dmd =>
    obtain ⟨xs, rfl⟩ := exists_map_of_valid exists_polarityCode hx
    obtain ⟨last, hlast, h⟩ :=
      commands_passOf dmd_isDataRule xs b (opened := ⟨.active, .plus, none⟩) rfl
    exact ⟨_, _, h, dmd_follows xs .active hlast⟩

end Sys2Proof.Machine
end

section
/-! # Clean passes in a run (40_dispatch.md R67, R68)

A closed pass in a run is a pass on its own (`passesOf_closed`). If everything before its END returned OK, its
input is its payloads, these are valid, and so it follows the reference (`okPass_follows`). -/

namespace Sys2Proof.Machine

/-- The exchanges of a pass on its own: those of its DATA, between its START's and its END's. -/
theorem exchangesOf_passOf (u : UnitId) (x : List SymbolCode) (b : Block) :
    ∃ first last : ResponseWord,
      b.exchangesOf (passOf u x) =
        { word := encode (startOf u), response := first } ::
          ((b.command (startOf u)).1.exchangesOf (x.map (dataOf u)) ++
            [{ word := encode (endOf u), response := last }]) := by
  rw [passOf, List.cons_append, exchangesOf_cons, Block.exchangesOf, List.map_append, converse_append]
  exact ⟨_, _, rfl⟩

/-- The responses to a pass, from the answers. -/
theorem passOf_responses {u : UnitId} {x : List SymbolCode} {b : Block} {es : List Emission}
    {last : Status × Emission}
    (h : (b.commands (passOf u x)).2 = (.ok, .none) :: es.map (fun e => (.ok, e)) ++ [last]) :
    (b.exchangesOf (passOf u x)).map Exchange.response = partResponses es ++ [answerWord last] := by
  rw [Block.exchangesOf, (converse_encode _ b).2, h]
  simp [partResponses]

/-- The host reads off the responses to a pass that follows the reference its output, its records and the
status of its END. -/
theorem PassFollowsReference.read {u : UnitId} {x : List SymbolCode} {es : List Emission}
    {last : Status × Emission} (h : PassFollowsReference u x es last) {p : Pass}
    (hp : p.exchanges.map Exchange.response = partResponses es ++ [answerWord last]) :
    p.output = referenceOutput u x ∧ p.records = referenceRecords u x ∧
      p.exchanges.getLast?.map (fun e => statusOf e.response) =
        some (if u = .dmd ∧ x.length % 2 = 1 then Status.malformedSignal.code else Status.ok.code) := by
  refine ⟨?_, ?_, ?_⟩
  · have hout : p.output = (p.exchanges.map Exchange.response).flatMap symbolsOf := by
      rw [List.flatMap_map]; rfl
    rw [hout, hp, List.flatMap_append, partResponses_symbols h.short, List.flatMap_singleton,
      symbolsOf_answerWord h.last_short, h.output]
  · have hrec : p.records = (p.exchanges.map Exchange.response).filterMap recordOf := by
      rw [List.filterMap_map]; rfl
    have hlast : recordOf (answerWord last) = none :=
      (recordOf_answerWord h.last_short).trans h.last_record
    rw [hrec, hp, List.filterMap_append, partResponses_records h.short, List.filterMap_cons_none hlast,
      List.filterMap_nil, List.append_nil, h.records]
  · have hstatus : p.exchanges.getLast?.map (fun e => statusOf e.response) =
        (p.exchanges.map Exchange.response).getLast?.map statusOf := by
      rw [List.getLast?_map, Option.map_map]; rfl
    rw [hstatus, hp, List.getLast?_concat, Option.map_some, answerWord, statusOf_responseWord, h.status]
    split <;> rfl

/-- The input of a pass whose responses before END's are all OK: its payloads, all of the unit's alphabet. -/
theorem okPass_input {u : UnitId} {p : Pass} {x : List SymbolCode} {b : Block}
    (hp : p.exchanges = b.exchangesOf (passOf u x))
    (hok : ∀ e ∈ p.exchanges.dropLast, statusOf e.response = Status.ok.code) :
    p.input = x ∧ ∀ pay ∈ x, validPayload u pay = true := by
  obtain ⟨first, last, hsplit⟩ := exchangesOf_passOf u x b
  rw [hsplit] at hp
  rw [hp, ← List.cons_append, List.dropLast_concat, List.forall_mem_cons] at hok
  have hopen : (b.command (startOf u)).1.mode u = .active := by
    simp [command_start (startOf_operation u)]
  refine ⟨?_, validPayload_data x hopen hok.2⟩
  rw [Pass.input, hp, List.filterMap_cons_none (by simp [acceptedPayload_encode]), List.filterMap_append,
    acceptedPayload_data x _ hok.2, List.filterMap_cons_none (by simp [acceptedPayload_encode]),
    List.filterMap_nil, List.append_nil]

/-- A pass on its own whose responses before END's are all OK. -/
theorem okPass_follows {u : UnitId} {p : Pass} {x : List SymbolCode} {b : Block}
    (hp : p.exchanges = b.exchangesOf (passOf u x))
    (hok : ∀ e ∈ p.exchanges.dropLast, statusOf e.response = Status.ok.code) :
    (∀ pay ∈ p.input, validPayload u pay = true) ∧
      p.output = referenceOutput u p.input ∧ p.records = referenceRecords u p.input ∧
      p.exchanges.getLast?.map (fun e => statusOf e.response) =
        some (if u = .dmd ∧ p.input.length % 2 = 1 then Status.malformedSignal.code
          else Status.ok.code) := by
  obtain ⟨hinput, hvalid⟩ := okPass_input hp hok
  obtain ⟨es, last, hanswers, hfollows⟩ := passOf_follows hvalid b
  rw [hinput]
  exact ⟨hvalid, hfollows.read (by rw [hp, passOf_responses hanswers])⟩

theorem clean_iff (p : Pass) :
    p.clean = true ↔
      p.ending = .closed ∧ ∀ e ∈ p.exchanges, statusOf e.response = Status.ok.code := by
  simp [Pass.clean]

/-- DMD's reference ignores the last sample of an odd number (45_dm_decoder.md R106). -/
theorem referenceOutput_dmd_dropLast {x : List SymbolCode}
    (hvalid : ∀ pay ∈ x, validPayload .dmd pay = true) (hodd : x.length % 2 = 1) :
    referenceOutput .dmd x.dropLast = referenceOutput .dmd x := by
  obtain ⟨xs, rfl⟩ := exists_map_of_valid exists_polarityCode hvalid
  rw [← List.map_dropLast, referenceOutput, referenceOutput, filterMap_dmSymbol, filterMap_dmSymbol,
    List.map_dropLast, dmDecode, dmDecodeFrom_dropLast _ _ (by simpa using hodd), dmDecode]

/-- Settles O44: each closed pass is one on its own, which follows the reference by `okPass_follows`; one of
odd length of DMD returns another status than OK at its END. -/
theorem cleanPassOutputsReference : Obligations.CleanPassOutputsReference := by
  intro ws s
  refine ⟨_, run_presentWords ws s, fun u p hp => ?_⟩
  rw [exchanges_run ws rfl] at hp
  constructor
  · intro hclean
    obtain ⟨hclosed, hok⟩ := (clean_iff p).mp hclean
    obtain ⟨x, b, hx⟩ := passesOf_closed ws s.block hp hclosed
    obtain ⟨-, hout, hrec, -⟩ := okPass_follows hx fun e he => hok e (List.mem_of_mem_dropLast he)
    exact ⟨hout, hrec⟩
  · rintro rfl hclosed hok hodd
    obtain ⟨x, b, hx⟩ := passesOf_closed ws s.block hp hclosed
    obtain ⟨hvalid, hout, -, hlast⟩ := okPass_follows hx hok
    rw [if_pos ⟨rfl, hodd⟩] at hlast
    refine ⟨?_, hlast, hout.trans (referenceOutput_dmd_dropLast hvalid hodd).symm⟩
    rw [← Bool.not_eq_true, clean_iff]
    rintro ⟨-, hall⟩
    obtain ⟨e, he, hmalformed⟩ := Option.map_eq_some_iff.mp hlast
    rw [hall e (List.mem_of_getLast? he)] at hmalformed
    exact absurd hmalformed (by decide)

end Sys2Proof.Machine
end

section
/-! # The next state after a command, by operation and mode (40_dispatch.md R62 to R65)

Each rule gives the whole next state of `exec`, for every unit. -/

namespace Sys2Proof.Machine

theorem exec_of_command {i : Instr} {s : State} {b : Block} {a : Status × Emission} {r : ResponseWord}
    (h : s.block.command i = (b, a)) (hr : answerWord a = r) :
    exec i s = .next { s with block := b, responses := s.responses ++ [r] } := by
  rw [exec_eq, h, ← hr]; rfl

theorem exec_start {i : Instr} (hop : i.operation = .start) (s : State) :
    exec i s = .next
      { s with
        block := (s.block.fresh i.unit).setMode i.unit .active,
        responses := s.responses ++ [0x0000#16] } :=
  exec_of_command (command_start hop) answerWord_ok_none

theorem exec_idle {i : Instr} {s : State} (hop : i.operation ≠ .start)
    (hm : s.block.mode i.unit = .idle) :
    exec i s = .next { s with responses := s.responses ++ [0x0003#16] } :=
  exec_of_command (command_idle hop hm) (by decide)

theorem exec_data_error {i : Instr} {s : State} (hop : i.operation = .data)
    (hm : s.block.mode i.unit = .error) :
    exec i s = .next { s with responses := s.responses ++ [0x0005#16] } :=
  exec_of_command (a := (.aborted, .none)) (by simp only [Block.command, hop, Block.gateData, hm])
    (by decide)

theorem exec_data_invalid {i : Instr} {s : State} (hop : i.operation = .data)
    (hm : s.block.mode i.unit = .active) (hd : s.block.data i.unit i.payload = none) :
    exec i s = .next
      { s with
        block := s.block.setMode i.unit .error, responses := s.responses ++ [0x0001#16] } :=
  exec_of_command (a := (.invalidSymbol, .none))
    (by simp only [Block.command, hop, Block.gateData, hm, hd]) (by decide)

theorem exec_data_accepted {i : Instr} {s : State} {b : Block} {e : Emission} {r : ResponseWord}
    (hop : i.operation = .data) (hm : s.block.mode i.unit = .active)
    (hd : s.block.data i.unit i.payload = some (b, e)) (hr : answerWord (.ok, e) = r) :
    exec i s = .next { s with block := b, responses := s.responses ++ [r] } :=
  exec_of_command (command_data_active hop hm hd) hr

theorem exec_end_error {i : Instr} {s : State} (hop : i.operation = .close)
    (hm : s.block.mode i.unit = .error) :
    exec i s = .next
      { s with
        block := s.block.setMode i.unit .idle, responses := s.responses ++ [0x0005#16] } :=
  exec_of_command (a := (.aborted, .none)) (by simp only [Block.command, hop, Block.gateEnd, hm])
    (by decide)

theorem exec_end_active {i : Instr} {s : State} {b : Block} {a : Status × Emission} {r : ResponseWord}
    (hop : i.operation = .close) (hm : s.block.mode i.unit = .active)
    (hf : (s.block.setMode i.unit .idle).finish i.unit = (b, a)) (hr : answerWord a = r) :
    exec i s = .next { s with block := b, responses := s.responses ++ [r] } :=
  exec_of_command (by simp only [Block.command, hop, Block.gateEnd, hm, hf]) hr

end Sys2Proof.Machine
end

section
/-! # The commands of AMIE (41_ami_encoder.md R74 to R76) -/

namespace Sys2Proof.Machine

/-- Settles O13: the rule of START with AMIE's START rule. -/
theorem amieStartOpensPassAtPlusOne : Obligations.AmieStartOpensPassAtPlusOne :=
  ⟨decode_encode .amieStart, exec_start rfl⟩

theorem amie_data_zero (b : Block) :
    b.data .amie 0#2 = some (b, .symbols [Sample.zero.code]) := rfl

theorem amie_data_one (b : Block) :
    b.data .amie 1#2 =
      some ({ b with amie := { b.amie with pol := b.amie.pol.neg } },
        .symbols [b.amie.pol.sample.code]) := rfl

theorem amie_data_invalid {pay : SymbolCode} (h : pay = 2#2 ∨ pay = 3#2) (b : Block) :
    b.data .amie pay = none := by
  rcases h with rfl | rfl <;> rfl

/-- An accepted `1` returns its mark and negates POL (R75). -/
theorem exec_amieData_one {s : State} (hm : s.block.amie.mode = .active) {p : Polarity}
    (hp : s.block.amie.pol = p) {r : ResponseWord}
    (hr : answerWord (.ok, .symbols [p.sample.code]) = r) :
    exec (.amieData 1#2) s = .next
      { s with
        block := { s.block with amie := { s.block.amie with pol := p.neg } },
        responses := s.responses ++ [r] } := by
  subst hp
  exact exec_data_accepted (i := .amieData 1#2) rfl hm (amie_data_one s.block) hr

/-- Settles O14: the rules of DATA in the three modes, with AMIE's DATA rule for each payload. -/
theorem amieDataEmitsAlternatingMark : Obligations.AmieDataEmitsAlternatingMark := by
  refine ⟨decode_encode (.amieData 0#2), decode_encode (.amieData 1#2),
    decode_encode (.amieData 2#2), decode_encode (.amieData 3#2), fun s =>
    ⟨fun hactive => ⟨?_, fun hplus => ?_, fun hminus => ?_, fun pay hpay => ?_⟩,
      fun hidle pay => ?_, fun herror pay => ?_⟩⟩
  · exact exec_data_accepted (i := .amieData 0#2) rfl hactive (amie_data_zero s.block) (by decide)
  · exact exec_amieData_one hactive hplus (by decide)
  · exact exec_amieData_one hactive hminus (by decide)
  · exact exec_data_invalid (i := .amieData pay) rfl hactive (amie_data_invalid hpay s.block)
  · exact exec_idle (by simp [Instr.operation]) hidle
  · exact exec_data_error rfl herror

/-- Settles O15: the rules of END in the three modes; AMIE has nothing buffered to finish. -/
theorem amieEndClosesPass : Obligations.AmieEndClosesPass := by
  refine ⟨decode_encode .amieEnd, fun s => ⟨fun hactive => ?_, fun hidle => ?_, fun herror => ?_⟩⟩
  · exact exec_end_active (i := .amieEnd) rfl hactive rfl answerWord_ok_none
  · exact exec_idle (by simp [Instr.operation]) hidle
  · exact exec_end_error rfl herror

end Sys2Proof.Machine
end

section
/-! # `ami_encode` sample by sample (41_ami_encoder.md R72, R73) -/

namespace Sys2Proof

theorem Polarity.plus_afterMarks_sample (n : Nat) :
    (Polarity.plus.afterMarks n).sample = if n % 2 = 0 then .plus else .minus := by
  unfold Polarity.afterMarks
  split <;> rfl

theorem amiEncode_length (b : List Bit) : (amiEncode b).length = b.length := by
  induction b using List.reverseRecOn with
  | nil => rfl
  | append_singleton b x ih => simp [amiEncode_snoc, ih]

/-- The sample of each bit is determined by the bits before it. -/
theorem amiEncode_getElem? (b : List Bit) (i : Nat) :
    (amiEncode b)[i]? = b[i]?.map (amiNext (b.take i)) := by
  induction b using List.reverseRecOn with
  | nil => rfl
  | append_singleton b x ih =>
    rw [amiEncode_snoc]
    rcases Nat.lt_trichotomy i b.length with hlt | rfl | hgt
    · rw [List.getElem?_append_left (by rwa [amiEncode_length]), List.getElem?_append_left hlt,
        List.take_append_of_le_length hlt.le, ih]
    · simp [← amiEncode_length]
    · simp [amiEncode_length, hgt]

theorem amiNext_eq_zero_iff (x : List Bit) (b : Bit) : amiNext x b = .zero ↔ b = false := by
  cases b <;> simp [amiNext, Polarity.sample_ne_zero]

theorem amiNext_true (x : List Bit) :
    amiNext x true = if x.count true % 2 = 0 then .plus else .minus :=
  Polarity.plus_afterMarks_sample _

/-- The marks of the signal: one for each `1`, alternating (00_scope.md R13). -/
theorem amiEncode_marks (b : List Bit) :
    (amiEncode b).filter (fun v => v ≠ .zero) =
      (List.range (b.count true)).map fun k => if k % 2 = 0 then .plus else .minus := by
  induction b using List.reverseRecOn with
  | nil => rfl
  | append_singleton b x ih =>
    rw [amiEncode_snoc, List.filter_append, ih, count_snoc]
    cases x with
    | false => simp [amiNext]
    | true =>
      have hmark : amiNext b true ≠ .zero := by simp [amiNext_eq_zero_iff]
      simp [hmark, List.range_succ, ← amiNext_true]

/-- Settles O50: `amiEncode_getElem?` for each sample, `amiEncode_marks` for the non-zero ones. -/
theorem amiEncodeAlternates : Obligations.AmiEncodeAlternates := by
  refine fun b => ⟨amiEncode_length b, fun k hk => ?_, fun i hi => ?_, fun i hi => ?_⟩
  · rw [amiEncode_marks] at hk ⊢
    rw [List.length_map, List.length_range] at hk
    simp [hk]
  · rw [amiEncode_getElem?, List.getElem?_eq_getElem hi]
    simp [amiNext_eq_zero_iff]
  · rw [amiEncode_getElem?, hi, Option.map_some, amiNext_true]

end Sys2Proof
end

section
/-! # A pass of AMIE (41_ami_encoder.md R77) -/

namespace Sys2Proof.Machine

/-- From every state, a pass of valid symbols runs to its end: START and DATA are answered as in
`run_partOfPass`, and END as the unit's END rule finishes with the registers they leave. -/
theorem run_passOf {α U : Type} {u : UnitId} {get : Block → U} {pay : α → SymbolCode}
    {data : α → U → U × Emission} (hdata : IsDataRule u get pay data) (xs : List α) (s : State)
    {opened : U} (hopened : get ((s.block.fresh u).setMode u .active) = opened) :
    ∃ (t : State) (last : Block),
      Host.Core.run Sys2Proof.core (xs.length + 2) (s.present (passOf u (xs.map pay))) = .next t ∧
      t.input = s.input ∧
      t.responses = s.responses ++
        (partResponses (feed data xs opened).2 ++ [answerWord (last.finish u).2]) ∧
      get last = (feed data xs opened).1 := by
  obtain ⟨last, hregs, hanswers⟩ := commands_passOf hdata xs s.block hopened
  have hlength : (passOf u (xs.map pay)).length = xs.length + 2 := by simp [passOf]
  have hrun := run_present (passOf u (xs.map pay)) s
  rw [hlength] at hrun
  refine ⟨_, last, hrun, rfl, ?_, hregs⟩
  simp [hanswers, partResponses]

theorem partResponses_length (es : List Emission) : (partResponses es).length = es.length + 1 := by
  simp [partResponses]

theorem partResponses_ok (es : List Emission) :
    ∀ r ∈ partResponses es, statusOf r = Status.ok.code := by
  simp [partResponses, answerWord]

/-- The response of the DATA of symbol `i` follows START's and those of the DATA before it. -/
theorem partResponses_getElem?_succ (es : List Emission) (i : Nat) :
    (partResponses es)[i + 1]? = es[i]?.map fun e => answerWord (.ok, e) := by
  simp [partResponses]

/-- AMIE emits the samples of `ami_encode`, one a DATA (R75, R77). -/
theorem amie_feed_emissions (xs : List Bit) (u : Amie) :
    (feed Amie.data xs u).2 = (amiEncodeFrom u.pol xs).map fun v => .symbols [v.code] := by
  induction xs generalizing u with
  | nil => rfl
  | cons x xs ih => cases x <;> simp [feed, Amie.data, amiEncodeFrom, ih]

/-- Settles O39: the responses of `run_passOf`, with the emissions of `amie_feed_emissions`. -/
theorem amiePassIsAmiEncode : Obligations.AmiePassIsAmiEncode := by
  intro x s
  obtain ⟨t, last, hrun, hinput, hresp, -⟩ :=
    run_passOf amie_isDataRule x s (opened := ⟨.active, .plus⟩) rfl
  have hend : (last.finish .amie).2 = (.ok, .none) := rfl
  have hempty : symbolsOf (answerWord (.ok, .none)) = [] := symbolsOf_answerWord (Nat.zero_le 3)
  have hemit : (feed Amie.data x ⟨.active, .plus⟩).2 =
      (amiEncode x).map fun v => .symbols [v.code] := amie_feed_emissions x _
  rw [hend, hemit] at hresp
  refine ⟨t, _, hrun, hinput, hresp, ?_, ?_, ?_, fun i hi => ?_⟩
  · simp [partResponses_length, amiEncode_length]
  · exact List.forall_mem_append.mpr ⟨partResponses_ok _, by simp [answerWord]⟩
  · rw [List.flatMap_append, partResponses_symbols (by simp [Emission.symbols])]
    simp [hempty, Emission.symbols, List.flatMap_map, ← List.map_eq_flatMap]
  · rw [List.getElem?_append_left (by simp [partResponses_length, amiEncode_length, hi]),
      partResponses_getElem?_succ]
    simp [symbolsOf_answerWord, Emission.symbols, Function.comp_def]

end Sys2Proof.Machine
end

section
/-! # `hdb3_encode` group by group (42_hdb3_encoder.md R79 to R84)

`hdb3Encode_snoc_cases` says what one more bit does to the signal: it adds a sample, or it makes the last three
zeros and the new one a group. So the samples that do not stand in the open run of zeros are settled
(`hdb3Encode_settled`), and the signal ends in as many zeros as that run has (`zeros_suffix_hdb3Encode`). -/

namespace Sys2Proof

/-- The pattern that a substitution right after the bits `x` applies (R80). -/
def groupPattern (x : List Bit) : Pattern :=
  if (x.count true + (hdb3Encode x).2.length) % 2 = 0 then .even else .odd

/-! ## The zeros at the end of the signal -/

theorem zeros_suffix_concat {k : Nat} {l : List Sample} {v : Sample} :
    List.replicate k Sample.zero <:+ l ++ [v] ↔
      k = 0 ∨ v = .zero ∧ List.replicate (k - 1) Sample.zero <:+ l := by
  cases k with
  | zero => simp
  | succ k =>
    have hcons : List.replicate (k + 1) Sample.zero = List.replicate k .zero ++ [.zero] :=
      List.replicate_succ'
    rw [List.suffix_concat_iff, hcons]
    constructor
    · rintro (hnil | ⟨t, ht, hsuffix⟩)
      · simp at hnil
      · obtain ⟨rfl, hv⟩ := List.append_inj' ht rfl
        exact .inr ⟨(List.singleton_inj.mp hv).symm, hsuffix⟩
    · rintro (hzero | ⟨rfl, hsuffix⟩)
      · cases hzero
      · exact .inr ⟨_, rfl, hsuffix⟩

/-- The signal ends in exactly the zeros that no group holds yet. -/
theorem zeros_suffix_hdb3Encode {x : List Bit} {k : Nat} :
    List.replicate k Sample.zero <:+ (hdb3Encode x).1 ↔ k ≤ trailingZeros x % 4 := by
  induction x using List.reverseRecOn generalizing k with
  | nil => simp [hdb3Encode, hdb3Scan, amiEncode, amiEncodeFrom, trailingZeros]
  | append_singleton x b ih =>
    rw [hdb3Encode_snoc, hdb3Next, trailingZeros_snoc]
    cases b with
    | true => simp [zeros_suffix_concat, amiNext, Polarity.sample_ne_zero]
    | false =>
      by_cases hz : trailingZeros x % 4 = 3
      · have hz' : (trailingZeros x + 1) % 4 = 0 := by omega
        simp only [hz, hz', and_self, if_true, Bool.false_eq_true, if_false]
        split <;> simp [zeros_suffix_concat]
      · have hcount : k ≤ (trailingZeros x + 1) % 4 ↔ k = 0 ∨ k - 1 ≤ trailingZeros x % 4 := by omega
        simp [hz, zeros_suffix_concat, amiNext, ih, hcount]

theorem hdb3Encode_rtake {x : List Bit} (h : trailingZeros x % 4 = 3) :
    (hdb3Encode x).1.rtake 3 = [.zero, .zero, .zero] := by
  have hsuffix := zeros_suffix_hdb3Encode.mpr h.ge
  exact (List.suffix_iff_eq_drop.mp hsuffix).symm

/-- Three zeros wait for the fourth, behind the samples that groups and marks have settled. -/
theorem hdb3Encode_eq_rdrop {x : List Bit} (h : trailingZeros x % 4 = 3) :
    (hdb3Encode x).1 = (hdb3Encode x).1.rdrop 3 ++ [.zero, .zero, .zero] := by
  rw [← hdb3Encode_rtake h]
  exact (List.take_append_drop ..).symm

/-! ## One more bit -/

/-- A zero that is the fourth of a group makes the group its pattern (R79, R80). -/
theorem hdb3Encode_group {x : List Bit} (h : trailingZeros x % 4 = 3) :
    hdb3Encode (x ++ [false]) =
      ((hdb3Encode x).1.rdrop 3 ++ (groupPattern x).samples, (hdb3Encode x).2 ++ [groupPattern x]) := by
  have hset : (hdb3Encode x).1.set ((hdb3Encode x).1.length - 3) .plus =
      (hdb3Encode x).1.rdrop 3 ++ [.plus, .zero, .zero] := by
    rw [Machine.set_eq_take_append _ (Nat.sub_le ..), ← List.rtake, hdb3Encode_rtake h]; rfl
  rw [hdb3Encode_snoc, hdb3Next, if_pos ⟨rfl, h⟩, groupPattern]
  split
  · simp [hset, Pattern.samples]
  · conv_lhs => rw [hdb3Encode_eq_rdrop h]
    simp [Pattern.samples]

/-- Everything one more bit can do to `hdb3_encode` (R79 to R82): a mark and a zero that completes no group add
their AMI sample; a fourth zero substitutes. -/
theorem hdb3Encode_snoc_cases (x : List Bit) (b : Bit) :
    ((b = false → trailingZeros x % 4 ≠ 3) ∧
      hdb3Encode (x ++ [b]) = ((hdb3Encode x).1 ++ [amiNext x b], (hdb3Encode x).2)) ∨
    (b = false ∧ trailingZeros x % 4 = 3 ∧ hdb3Encode (x ++ [b]) =
      ((hdb3Encode x).1.rdrop 3 ++ (groupPattern x).samples, (hdb3Encode x).2 ++ [groupPattern x])) := by
  by_cases h : b = false ∧ trailingZeros x % 4 = 3
  · obtain ⟨rfl, hz⟩ := h
    exact .inr ⟨rfl, hz, hdb3Encode_group hz⟩
  · exact .inl ⟨fun hb hz => h ⟨hb, hz⟩, by rw [hdb3Encode_snoc, hdb3Next, if_neg h]⟩

theorem trailingZeros_mod_le (x : List Bit) : trailingZeros x % 4 ≤ (hdb3Encode x).1.length := by
  simpa using (zeros_suffix_hdb3Encode.mpr le_rfl).length_le

/-- One more bit changes no sample except those of the group it completes. -/
theorem hdb3Encode_snoc_getElem? {x : List Bit} {b : Bit} {k : Nat} (hk : k < x.length)
    (h : b = false → trailingZeros x % 4 = 3 → k + 3 < x.length) :
    (hdb3Encode (x ++ [b])).1[k]? = (hdb3Encode x).1[k]? := by
  have hlen := hdb3Encode_length x
  rcases hdb3Encode_snoc_cases x b with ⟨-, hnext⟩ | ⟨hb, hz, hnext⟩ <;> rw [hnext]
  · exact List.getElem?_append_left (by omega)
  · have hbefore : k < ((hdb3Encode x).1.rdrop 3).length := by
      have := h hb hz
      simp only [List.rdrop, List.length_take]; omega
    conv_rhs => rw [hdb3Encode_eq_rdrop hz]
    rw [List.getElem?_append_left hbefore, List.getElem?_append_left hbefore]

/-- A run of zeros that goes on for `y` has counted at most the bits of `y` more. -/
theorem trailingZeros_append_mod_le (x y : List Bit) :
    trailingZeros (x ++ y) % 4 ≤ trailingZeros x % 4 + y.length := by
  induction y using List.reverseRecOn with
  | nil => simp
  | append_singleton y b ih =>
    rw [← List.append_assoc, trailingZeros_snoc, List.length_append, List.length_singleton]
    cases b with
    | true => simp
    | false => simp only [Bool.false_eq_true, if_false]; omega

/-- The samples before the open run of zeros are settled: later bits change none of them. -/
theorem hdb3Encode_settled (x y : List Bit) {k : Nat} (hk : k + trailingZeros x % 4 < x.length) :
    (hdb3Encode (x ++ y)).1[k]? = (hdb3Encode x).1[k]? := by
  induction y using List.reverseRecOn with
  | nil => rw [List.append_nil]
  | append_singleton y b ih =>
    have hrun := trailingZeros_append_mod_le x y
    rw [← List.append_assoc, hdb3Encode_snoc_getElem? (by simp; omega), ih]
    intro _ hz
    rw [List.length_append]
    omega

/-- As many first samples as are settled after `x` are those of `hdb3_encode` of `x`. -/
theorem hdb3Encode_take_settled (x y : List Bit) {k : Nat} (hk : k + trailingZeros x % 4 ≤ x.length) :
    (hdb3Encode (x ++ y)).1.take k = (hdb3Encode x).1.take k := by
  refine List.ext_getElem? fun j => ?_
  rw [List.getElem?_take, List.getElem?_take]
  split
  · exact hdb3Encode_settled x y (by omega)
  · rfl

/-! ## The samples of a position (R79 to R82) -/

theorem take_succ_of_getElem? {b : List Bit} {i : Nat} {x : Bit} (h : b[i]? = some x) :
    b.take (i + 1) = b.take i ++ [x] := by
  rw [List.take_add_one, h, Option.toList_some]

theorem hdb3Encode_mark {b : List Bit} {i : Nat} (h : b[i]? = some true) :
    (hdb3Encode b).1[i]? = (amiEncode b)[i]? := by
  obtain ⟨hi, -⟩ := List.getElem?_eq_some_iff.mp h
  have hlen : (b.take i).length = i := List.length_take_of_le hi.le
  have hsettled := hdb3Encode_settled (b.take i ++ [true]) (b.drop (i + 1)) (k := i)
    (by simp [trailingZeros_snoc, hlen])
  rw [← take_succ_of_getElem? h, List.take_append_drop, take_succ_of_getElem? h] at hsettled
  rw [hsettled, amiEncode_getElem?, h, hdb3Encode_snoc]
  simp [hdb3Next, hdb3Encode_length, hlen]

/-- The four samples that end at the fourth zero of a group are the pattern of the parity before it. -/
theorem hdb3Encode_group_samples {b : List Bit} {i : Nat} (h : b[i]? = some false)
    (hfourth : trailingZeros (b.take (i + 1)) % 4 = 0) :
    ((hdb3Encode b).1.drop (i - 3)).take 4 = (groupPattern (b.take i)).samples := by
  obtain ⟨hi, -⟩ := List.getElem?_eq_some_iff.mp h
  have hlen : (b.take i).length = i := List.length_take_of_le hi.le
  have htake := take_succ_of_getElem? h
  have hz : trailingZeros (b.take i) % 4 = 3 := by
    rw [htake, trailingZeros_snoc] at hfourth
    simp only [Bool.false_eq_true, if_false] at hfourth
    omega
  have hthree : 3 ≤ i := by
    have := trailingZeros_mod_le (b.take i)
    rwa [hz, hdb3Encode_length, hlen] at this
  have hsettled : (hdb3Encode b).1.take (i + 1) = (hdb3Encode (b.take (i + 1))).1 := by
    conv_lhs => rw [← List.take_append_drop (i + 1) b]
    rw [hdb3Encode_take_settled _ _ (by rw [hfourth, List.length_take]; omega), List.take_of_length_le]
    rw [hdb3Encode_length]; exact List.length_take_le ..
  have hbefore : ((hdb3Encode (b.take i)).1.rdrop 3).length = i - 3 := by
    rw [List.rdrop, List.length_take, hdb3Encode_length, hlen]; omega
  have hfour : i - 3 + 4 = i + 1 := by omega
  rw [List.take_drop, hfour, hsettled, htake, hdb3Encode_group hz]
  exact List.drop_left' hbefore

/-- A zero that no complete group covers stays 0. -/
theorem hdb3Encode_loose_zero {b : List Bit} {i : Nat} (h : b[i]? = some false)
    (hloose : ∀ j : Nat, i ≤ j → j ≤ i + 3 → j < b.length →
      ¬ (trailingZeros (b.take (j + 1)) % 4 = 0 ∧ j - i < trailingZeros (b.take (j + 1)))) :
    (hdb3Encode b).1[i]? = some .zero := by
  induction b using List.reverseRecOn with
  | nil => simp at h
  | append_singleton x c ih =>
    have hlast (hc : c = false) (hx : i + 3 ≥ x.length) (hi : i ≤ x.length)
        (hz : trailingZeros x % 4 = 3) : False := by
      refine hloose x.length hi hx (by simp) ?_
      rw [List.take_of_length_le (by simp), trailingZeros_snoc, hc]
      simp only [Bool.false_eq_true, if_false]
      omega
    rcases Nat.lt_trichotomy i x.length with hlt | rfl | hgt
    · rw [hdb3Encode_snoc_getElem? hlt fun hc hz => Nat.lt_of_not_le fun hx => hlast hc hx hlt.le hz]
      refine ih (by rwa [List.getElem?_append_left hlt] at h) fun j hij hji hj => ?_
      have hsame := hloose j hij hji (by simp; omega)
      rwa [List.take_append_of_le_length hj] at hsame
    · obtain rfl : c = false := by simpa using h
      rcases hdb3Encode_snoc_cases x false with ⟨-, hnext⟩ | ⟨-, hz, -⟩
      · rw [hnext]; simp [← hdb3Encode_length, amiNext]
      · exact (hlast rfl (by omega) le_rfl hz).elim
    · simp [List.getElem?_eq_none (l := x ++ [c]) (by simpa using hgt)] at h

/-- Settles O51: `hdb3Encode_mark`, `hdb3Encode_group_samples` and `hdb3Encode_loose_zero`. -/
theorem substitutedGroupsFollowParity : Obligations.SubstitutedGroupsFollowParity :=
  fun _ _ => ⟨hdb3Encode_mark, hdb3Encode_group_samples, hdb3Encode_loose_zero⟩

/-! ## Runs of zeros (R84) -/

/-- A group leaves no run of four zeros that was not there before it. -/
theorem four_zeros_before_group {l : List Sample} {p : Pattern}
    (h : List.replicate 4 Sample.zero <:+: l ++ p.samples) :
    List.replicate 4 Sample.zero <:+: l ++ [.zero, .zero, .zero] := by
  have hcut (a b c d : Sample) : l ++ [a, b, c, d] = l ++ [a] ++ [b] ++ [c] ++ [d] := by simp
  cases p with
  | even =>
    rw [Pattern.samples, hcut] at h
    simp only [List.infix_concat_iff, zeros_suffix_concat] at h
    have hbefore : List.replicate 4 Sample.zero <:+: l := by simpa using h
    exact hbefore.trans ⟨[], _, rfl⟩
  | odd =>
    rw [Pattern.samples, hcut, List.infix_concat_iff, zeros_suffix_concat] at h
    simpa using h

theorem hdb3Encode_not_four_zeros (b : List Bit) :
    ¬ List.replicate 4 Sample.zero <:+: (hdb3Encode b).1 := by
  induction b using List.reverseRecOn with
  | nil => simp [hdb3Encode, hdb3Scan, amiEncode, amiEncodeFrom]
  | append_singleton x b ih =>
    rcases hdb3Encode_snoc_cases x b with ⟨-, hnext⟩ | ⟨-, hz, hnext⟩
    · have hsuffix : ¬ List.replicate 4 Sample.zero <:+ (hdb3Encode (x ++ [b])).1 := by
        rw [zeros_suffix_hdb3Encode]; omega
      rw [hnext] at hsuffix ⊢
      rw [List.infix_concat_iff, not_or]
      exact ⟨hsuffix, ih⟩
    · rw [hnext]
      intro h
      rw [hdb3Encode_eq_rdrop hz] at ih
      exact ih (four_zeros_before_group h)

/-- Settles O52: the open run of zeros the signal ends in is shorter than four, and a group makes no new run. -/
theorem hdb3EncodeBoundsZeroRuns : Obligations.Hdb3EncodeBoundsZeroRuns :=
  fun b => ⟨hdb3Encode_length b, hdb3Encode_not_four_zeros b⟩

end Sys2Proof
end

section
/-! # A pass of HDB3E (42_hdb3_encoder.md R90) -/

namespace Sys2Proof.Machine

/-- What the DATA of symbol `i` emits is what the unit's rule emits after the symbols before it. -/
theorem feed_getElem? {α U : Type} (data : α → U → U × Emission) (xs : List α) (u : U) (i : Nat) :
    (feed data xs u).2[i]? = xs[i]?.map fun x => (data x (feed data (xs.take i) u).1).2 := by
  induction xs generalizing u i with
  | nil => rfl
  | cons x xs ih =>
    cases i with
    | zero => rfl
    | succ i => simp [feed, ih]

theorem feed_length {α U : Type} (data : α → U → U × Emission) (xs : List α) (u : U) :
    (feed data xs u).2.length = xs.length := by
  induction xs generalizing u with
  | nil => rfl
  | cons x xs ih => simp [feed, ih]

/-- From the responses to a pass, that to the DATA of symbol `i`. -/
theorem passResponses_getElem?_succ {α U : Type} (data : α → U → U × Emission) {xs : List α} {x : α}
    {i : Nat} (h : xs[i]? = some x) (u : U) (last : ResponseWord) :
    (partResponses (feed data xs u).2 ++ [last])[i + 1]? =
      some (answerWord (.ok, (data x (feed data (xs.take i) u).1).2)) := by
  obtain ⟨hi, -⟩ := List.getElem?_eq_some_iff.mp h
  have hlen : i + 1 < (partResponses (feed data xs u).2).length := by
    rw [partResponses_length, feed_length]; omega
  rw [List.getElem?_append_left hlen, partResponses_getElem?_succ, feed_getElem?, h]
  rfl

/-- The samples that have left the delay line are settled (R88). -/
theorem hdb3Encode_take_rdrop {x : List Bit} {k : Nat} (hk : k ≤ x.length) :
    (hdb3Encode (x.take k)).1.rdrop 3 = (hdb3Encode x).1.take (k - 3) := by
  have hlen : (x.take k).length = k := List.length_take_of_le hk
  have hopen := trailingZeros_mod_le (x.take k)
  rw [hdb3Encode_length, hlen] at hopen
  have hsettled := hdb3Encode_take_settled (x.take k) (x.drop k) (k := k - 3) (by omega)
  rw [List.take_append_drop] at hsettled
  rw [hsettled, List.rdrop, hdb3Encode_length, hlen]

/-- With one DATA after the bits `x` the delay line moves on by one bit (R88). -/
theorem Hdb3eFollows.data_emits {x : List Bit} {u : Hdb3e} {es : List Emission}
    (h : Hdb3eFollows x u es) (b : Bit) :
    ((hdb3Encode x).1.rdrop 3).map Sample.code ++ (u.data b).2.out =
      ((hdb3Encode (x ++ [b])).1.rdrop 3).map Sample.code := by
  refine List.append_cancel_right (bs := (u.data b).1.dl.map Sample.code) ?_
  rw [List.append_assoc, h.data_line b, (h.data b).dl, ← List.map_append]
  exact congrArg _ (List.take_append_drop ..).symm

/-- A DATA carries a record exactly when it is a group's fourth zero (R88). -/
theorem Hdb3eFollows.data_record {x : List Bit} {u : Hdb3e} {es : List Emission}
    (h : Hdb3eFollows x u es) (b : Bit) :
    (u.data b).2.record.isSome = true ↔ b = false ∧ trailingZeros (x ++ [b]) % 4 = 0 := by
  have hgroup : u.zrun = 3#2 ↔ trailingZeros x % 4 = 3 := by
    rw [← h.zrun, ← BitVec.toNat_inj]; rfl
  have hfourth : trailingZeros (x ++ [false]) % 4 = 0 ↔ trailingZeros x % 4 = 3 := by
    rw [trailingZeros_snoc]; simp only [Bool.false_eq_true, if_false]; omega
  rcases hdb3e_data_cases b u with ⟨rfl, hd⟩ | ⟨rfl, hz, hd⟩ | ⟨rfl, hz, -, hd⟩ | ⟨rfl, hz, -, hd⟩ <;>
    rw [hd, shift_record]
  · simp
  · simpa [hfourth, ← hgroup] using hz
  · simpa [hfourth, ← hgroup] using hz
  · simpa [hfourth, ← hgroup] using hz

/-- The DATA of bit `i` emits the sample of `hdb3_encode` three before it, once there is one (R90). -/
theorem hdb3e_data_out_of_pass {x : List Bit} {i : Nat} {b : Bit} (h : x[i]? = some b) :
    (((feed Hdb3e.data (x.take i) Hdb3e.opened).1).data b).2.out =
      (if i < 3 then [] else ((hdb3Encode x).1.drop (i - 3)).take 1).map Sample.code := by
  obtain ⟨hi, -⟩ := List.getElem?_eq_some_iff.mp h
  have hemits := (hdb3e_feed (x.take i)).data_emits b
  rw [← take_succ_of_getElem? h, hdb3Encode_take_rdrop hi.le, hdb3Encode_take_rdrop hi] at hemits
  split
  next hshort =>
    have hnow : i - 3 = 0 := by omega
    have hnext : i + 1 - 3 = 0 := by omega
    simpa [hnow, hnext] using hemits
  next hfull =>
    have hnext : i + 1 - 3 = i - 3 + 1 := by omega
    rw [hnext, List.take_add, List.map_append] at hemits
    exact List.append_cancel_left hemits

theorem Hdb3eFollows.dl_eq_drop {x : List Bit} {u : Hdb3e} {es : List Emission}
    (h : Hdb3eFollows x u es) : u.dl = (hdb3Encode x).1.drop (x.length - min x.length 3) := by
  have hdrop : x.length - min x.length 3 = x.length - 3 := by omega
  rw [h.dl, List.rtake, hdb3Encode_length, hdrop]

/-- Settles O40: the responses of `run_passOf`, DATA by DATA, and `hdb3e_follows` for the pass as a whole. -/
theorem hdb3ePassIsHdb3Encode : Obligations.Hdb3ePassIsHdb3Encode := by
  intro x s
  obtain ⟨t, last, hrun, hinput, hresp, hlast⟩ :=
    run_passOf hdb3e_isDataRule x s (opened := .opened) rfl
  obtain ⟨hout, hrec, hshort, hlastshort, hlastrec, hstatus⟩ := hdb3e_follows x hlast
  have hlen : (partResponses (feed Hdb3e.data x Hdb3e.opened).2).length = x.length + 1 := by
    rw [partResponses_length, feed_length]
  have hdl := (hdb3e_feed x).dl_eq_drop
  rw [← hlast] at hdl
  refine ⟨t, _, hrun, hinput, hresp, by simp [hlen], ?_, ?_, fun i hi => ?_, ?_, ?_,
    fun i hi r hr => ?_⟩
  · exact List.forall_mem_append.mpr ⟨partResponses_ok _, by simp [answerWord, hstatus]⟩
  · rw [List.flatMap_append, partResponses_symbols hshort, List.flatMap_singleton,
      symbolsOf_answerWord hlastshort, hout, referenceOutput, filterMap_bitSymbol]
  · have hb := List.getElem?_eq_getElem hi
    rw [passResponses_getElem?_succ Hdb3e.data hb, Option.map_some,
      symbolsOf_answerWord (hdb3e_data_out_le ..), hdb3e_data_out_of_pass hb]
    split <;> rfl
  · rw [← hlen, List.getElem?_concat_length, Option.map_some, symbolsOf_answerWord hlastshort, ← hdl]
    rfl
  · rw [List.filterMap_append, partResponses_records hshort, hrec,
      List.filterMap_cons_none ((recordOf_answerWord hlastshort).trans hlastrec), List.filterMap_nil,
      List.append_nil, referenceRecords, filterMap_bitSymbol]
  · have hb := List.getElem?_eq_getElem hi
    rw [passResponses_getElem?_succ Hdb3e.data hb, Option.some_inj] at hr
    rw [← hr, recordOf_answerWord (hdb3e_data_out_le ..), (hdb3e_feed _).data_record, hb,
      ← take_succ_of_getElem? hb, Option.some_inj]

end Sys2Proof.Machine
end

section
/-! # The commands of HDB3E (42_hdb3_encoder.md R87 to R89) -/

namespace Sys2Proof

theorem Polarity.neg_eq_ite (p : Polarity) : p.neg = if p = .plus then .minus else .plus := by
  cases p <;> rfl

theorem Polarity.sample_eq_ite (p : Polarity) : p.sample = if p = .plus then .plus else .minus := by
  cases p <;> rfl

theorem Parity.flip_eq_ite (p : Parity) : p.flip = if p = .even then .odd else .even := by
  cases p <;> rfl

end Sys2Proof

namespace Sys2Proof.Machine

/-- Settles O16: the rule of START with HDB3E's START rule. -/
theorem hdb3eStartDiscardsDelayLine : Obligations.Hdb3eStartDiscardsDelayLine :=
  ⟨decode_encode .hdb3eStart, exec_start rfl⟩

/-! ## DATA -/

/-- A mark adds POL, negates POL and flips PP (R88). -/
theorem hdb3e_data_mark (u : Hdb3e) :
    u.data true = Hdb3e.shift (if u.pol = .plus then .plus else .minus)
      { u with
        pol := if u.pol = .plus then .minus else .plus,
        pp := if u.pp = .even then .odd else .even, zrun := 0#2 } none := by
  rw [← Polarity.sample_eq_ite, ← Polarity.neg_eq_ite, ← Parity.flip_eq_ite]
  rfl

/-- A zero that is not the fourth of its group is counted (R88). -/
theorem hdb3e_data_zero {u : Hdb3e} (h : u.zrun ≠ 3#2) :
    u.data false = Hdb3e.shift .zero { u with zrun := u.zrun + 1#2 } none := by
  rcases hdb3e_data_cases false u with ⟨hb, -⟩ | ⟨-, -, hd⟩ | ⟨-, hz, -⟩ | ⟨-, hz, -⟩
  · cases hb
  · exact hd
  · exact absurd hz h
  · exact absurd hz h

/-- The fourth zero with PP even (R88). -/
theorem hdb3e_data_even {u : Hdb3e} (hz : u.zrun = 3#2) (hp : u.pp = .even) :
    u.data false =
      Hdb3e.shift .minus { u with dl := u.dl.set 0 .plus, zrun := 0#2, pp := .odd } (some .even) := by
  rcases hdb3e_data_cases false u with ⟨hb, -⟩ | ⟨-, hz', -⟩ | ⟨-, -, -, hd⟩ | ⟨-, -, hp', -⟩
  · cases hb
  · exact absurd hz hz'
  · exact hd
  · rw [hp] at hp'; cases hp'

/-- The fourth zero with PP odd (R88). -/
theorem hdb3e_data_odd {u : Hdb3e} (hz : u.zrun = 3#2) (hp : u.pp = .odd) :
    u.data false = Hdb3e.shift .plus { u with zrun := 0#2, pp := .even } (some .odd) := by
  rcases hdb3e_data_cases false u with ⟨hb, -⟩ | ⟨-, hz', -⟩ | ⟨-, -, hp', -⟩ | ⟨-, -, -, hd⟩
  · cases hb
  · exact absurd hz hz'
  · rw [hp] at hp'; cases hp'
  · exact hd

/-- In an open or aborted pass the invariant makes the line of a run of three zeros those zeros (R33, R88). -/
theorem hdb3e_dl_of_zrun_three {u : Hdb3e} (hinv : u.inv = true) (hm : u.mode ≠ .idle)
    (hz : u.zrun = 3#2) : u.dl = [.zero, .zero, .zero] := by
  obtain ⟨hlen, hidle | ⟨hle, hall⟩⟩ := (hdb3e_inv_iff u).mp hinv
  · exact absurd hidle hm
  · rw [hz] at hle hall
    obtain ⟨x, y, z, hdl⟩ := List.length_eq_three.mp (Nat.le_antisymm hlen hle)
    rw [hdl] at hall ⊢
    simpa [and_comm, and_assoc] using hall

/-- A valid DATA in a pass (40_dispatch.md R64). -/
theorem exec_hdb3eData {s : State} (hm : s.block.hdb3e.mode = .active) {b : Bit} {u : Hdb3e}
    {e : Emission} (hd : s.block.hdb3e.data b = (u, e)) {r : ResponseWord}
    (hr : answerWord (.ok, e) = r) :
    exec (.hdb3eData (bitCode b)) s = .next
      { s with block := { s.block with hdb3e := u }, responses := s.responses ++ [r] } := by
  have hdata : s.block.data .hdb3e (bitCode b) = some ({ s.block with hdb3e := u }, e) := by
    rw [Block.data, bitSymbol_code, Option.map_some, hd]
  exact exec_data_accepted (i := .hdb3eData (bitCode b)) rfl hm hdata hr

theorem hdb3e_data_invalid {pay : SymbolCode} (h : pay = 2#2 ∨ pay = 3#2) (b : Block) :
    b.data .hdb3e pay = none := by
  rcases h with rfl | rfl <;> rfl

/-- Settles O17: the DATA rule of each bit on a short and on a full line, and the rules of DATA in the other
cases. -/
theorem hdb3eDataSubstitutesFourthZero : Obligations.Hdb3eDataSubstitutesFourthZero := by
  refine ⟨decode_encode (.hdb3eData 0#2), decode_encode (.hdb3eData 1#2),
    decode_encode (.hdb3eData 2#2), decode_encode (.hdb3eData 3#2),
    fun u => hdb3e_dl_of_zrun_three, fun s hm hshort => ⟨?_, fun hz => ?_⟩,
    fun s x y z hm hdl => ⟨?_, fun hz => ?_, fun hz hp => ?_, fun hz hp => ?_⟩,
    fun s pay => ⟨fun hm hpay => ?_, fun hm => ?_, fun hm => ?_⟩⟩
  · exact exec_hdb3eData hm (b := true) ((hdb3e_data_mark _).trans (shift_short _ _ _ hshort))
      answerWord_ok_none
  · exact exec_hdb3eData hm (b := false) ((hdb3e_data_zero hz).trans (shift_short _ _ _ hshort))
      answerWord_ok_none
  · exact exec_hdb3eData hm (b := true) ((hdb3e_data_mark _).trans (shift_full _ x y z _ _ hdl))
      (by cases x <;> rfl)
  · exact exec_hdb3eData hm (b := false) ((hdb3e_data_zero hz).trans (shift_full _ x y z _ _ hdl))
      (by cases x <;> rfl)
  · have hset : s.block.hdb3e.dl.set 0 .plus = [.plus, y, z] := by rw [hdl]; rfl
    exact exec_hdb3eData hm (b := false)
      ((hdb3e_data_even hz hp).trans (shift_full _ .plus y z _ _ hset)) (by decide)
  · exact exec_hdb3eData hm (b := false)
      ((hdb3e_data_odd hz hp).trans (shift_full _ x y z _ _ hdl)) (by cases x <;> rfl)
  · exact exec_data_invalid (i := .hdb3eData pay) rfl hm (hdb3e_data_invalid hpay s.block)
  · exact exec_idle (by simp [Instr.operation]) hm
  · exact exec_data_error rfl hm

/-! ## END -/

/-- END of a pass emits the delay line and empties it (R89). -/
theorem exec_hdb3eEnd_active {s : State} (hm : s.block.hdb3e.mode = .active) {l : List Sample}
    (hdl : s.block.hdb3e.dl = l) {w : ResponseWord}
    (hw : answerWord (.ok, .symbols (l.map Sample.code)) = w) :
    exec .hdb3eEnd s = .next
      { s with
        block := { s.block with hdb3e := { s.block.hdb3e with mode := .idle, dl := [] } },
        responses := s.responses ++ [w] } := by
  subst hdl
  exact exec_end_active (i := .hdb3eEnd) rfl hm rfl hw

/-- Settles O18: `exec_hdb3eEnd_active` for each fill of the line, and the rules of END in the other modes. -/
theorem hdb3eEndFlushesDelayLine : Obligations.Hdb3eEndFlushesDelayLine := by
  refine ⟨decode_encode .hdb3eEnd, fun s => ⟨fun hm w hw => ?_, fun hm => ?_, fun hm => ?_⟩⟩
  · rcases hw with ⟨hdl, rfl⟩ | ⟨x, hdl, rfl⟩ | ⟨x, y, hdl, rfl⟩ | ⟨x, y, z, hdl, rfl⟩
    · exact exec_hdb3eEnd_active hm hdl answerWord_ok_none
    · exact exec_hdb3eEnd_active hm hdl (by cases x <;> rfl)
    · exact exec_hdb3eEnd_active hm hdl (by cases x <;> cases y <;> rfl)
    · exact exec_hdb3eEnd_active hm hdl (by cases x <;> cases y <;> cases z <;> rfl)
  · exact exec_idle (by simp [Instr.operation]) hm
  · exact exec_end_error rfl hm

end Sys2Proof.Machine
end

section
/-! # A pass of HDB3D (43_hdb3_decoder.md R98) -/

namespace Sys2Proof.Machine

/-- Settles O41: the responses of `run_passOf`, and `hdb3d_follows` for what DATA and END together emit. -/
theorem hdb3dPassIsHdb3Decode : Obligations.Hdb3dPassIsHdb3Decode := by
  intro x s
  obtain ⟨t, last, hrun, hinput, hresp, hlast⟩ :=
    run_passOf hdb3d_isDataRule x s (opened := ⟨.active, []⟩) rfl
  obtain ⟨hout, -, hshort, hlastshort, -, hstatus⟩ := hdb3d_follows x .active hlast
  refine ⟨t, _, hrun, hinput, hresp, ?_, ?_, ?_⟩
  · simp [partResponses_length, feed_length]
  · exact List.forall_mem_append.mpr ⟨partResponses_ok _, by simp [answerWord, hstatus]⟩
  · rw [List.flatMap_append, partResponses_symbols hshort, List.flatMap_singleton,
      symbolsOf_answerWord hlastshort, hout, referenceOutput, filterMap_sampleSymbol]

end Sys2Proof.Machine
end

section
/-! # The commands of HDB3D (43_hdb3_decoder.md R95 to R97) -/

namespace Sys2Proof.Machine

/-- Settles O19: the rule of START with HDB3D's START rule. -/
theorem hdb3dStartDiscardsBuffer : Obligations.Hdb3dStartDiscardsBuffer :=
  ⟨decode_encode .hdb3dStart, exec_start rfl⟩

/-! ## DATA -/

/-- A valid DATA in a pass (40_dispatch.md R64). -/
theorem exec_hdb3dData {s : State} (hm : s.block.hdb3d.mode = .active) {x : Sample} {u : Hdb3d}
    {e : Emission} (hd : s.block.hdb3d.data x = (u, e)) {r : ResponseWord}
    (hr : answerWord (.ok, e) = r) :
    exec (.hdb3dData x.code) s = .next
      { s with block := { s.block with hdb3d := u }, responses := s.responses ++ [r] } := by
  have hdata : s.block.data .hdb3d x.code = some ({ s.block with hdb3d := u }, e) := by
    rw [Block.data, sampleSymbol_code, Option.map_some, hd]
  exact exec_data_accepted (i := .hdb3dData x.code) rfl hm hdata hr

/-- A non-zero sample decides to the bit `1` (R96). -/
theorem answerWord_bit_of_ne_zero {x : Sample} (h : x ≠ .zero) :
    answerWord (.ok, .symbols [bitCode (sampleBit x)]) = 0x0108#16 := by
  cases x with
  | zero => exact absurd rfl h
  | plus | minus => rfl

/-- Settles O20: the DATA rule of a short buffer, of a window, and of a sample decided on its own, and the
rules of DATA in the other cases. -/
theorem hdb3dDataDecidesFourthSample : Obligations.Hdb3dDataDecidesFourthSample := by
  refine ⟨decode_encode (.hdb3dData 0#2), decode_encode (.hdb3dData 1#2),
    decode_encode (.hdb3dData 2#2), decode_encode (.hdb3dData 3#2),
    fun s => ⟨fun hm => ⟨fun pay x hpay => ?_, ?_⟩, fun hm pay => ?_, fun hm pay => ?_⟩⟩
  · obtain rfl : pay = x.code := by rcases hpay with ⟨rfl, rfl⟩ | ⟨rfl, rfl⟩ | ⟨rfl, rfl⟩ <;> rfl
    refine ⟨fun hshort => ?_, fun hwindow => ?_, fun a b c hbuf ha => ?_, fun b c hbuf hbc => ?_⟩
    · exact exec_hdb3dData hm (hdb3d_data_short x _ hshort) answerWord_ok_none
    · exact exec_hdb3dData hm (hdb3d_data_window x _ hwindow) (by decide)
    · exact exec_hdb3dData hm (hdb3d_data_single x a b c _ hbuf fun ⟨hzero, _⟩ => ha hzero)
        (answerWord_bit_of_ne_zero ha)
    · have hw : ¬ (Sample.zero = .zero ∧ b = .zero ∧ c = .zero) :=
        fun ⟨_, hb, hc⟩ => hbc.elim (absurd hb) (absurd hc)
      exact exec_hdb3dData hm (hdb3d_data_single x .zero b c _ hbuf hw) (by decide)
  · exact exec_data_invalid (i := .hdb3dData 2#2) rfl hm rfl
  · exact exec_idle (by simp [Instr.operation]) hm
  · exact exec_data_error rfl hm

/-! ## END -/

/-- END of a pass decodes each sample still held on its own and empties BUF (R97). -/
theorem exec_hdb3dEnd_active {s : State} (hm : s.block.hdb3d.mode = .active) {l : List Sample}
    (hbuf : s.block.hdb3d.buf = l) {w : ResponseWord}
    (hw : answerWord (.ok, .symbols (l.map fun x => bitCode (sampleBit x))) = w) :
    exec .hdb3dEnd s = .next
      { s with
        block := { s.block with hdb3d := { mode := .idle, buf := [] } },
        responses := s.responses ++ [w] } := by
  subst hbuf
  exact exec_end_active (i := .hdb3dEnd) rfl hm rfl hw

/-- Settles O21: `exec_hdb3dEnd_active` for each fill of BUF, and the rules of END in the other modes. -/
theorem hdb3dEndDecodesRemainder : Obligations.Hdb3dEndDecodesRemainder := by
  refine ⟨decode_encode .hdb3dEnd, fun s => ⟨fun hm w hw => ?_, fun hm => ?_, fun hm => ?_⟩⟩
  · rcases hw with ⟨hbuf, rfl⟩ | ⟨x, hbuf, rfl⟩ | ⟨x, y, hbuf, rfl⟩ | ⟨x, y, z, hbuf, rfl⟩
    · exact exec_hdb3dEnd_active hm hbuf answerWord_ok_none
    · exact exec_hdb3dEnd_active hm hbuf (by cases x <;> rfl)
    · exact exec_hdb3dEnd_active hm hbuf (by cases x <;> cases y <;> rfl)
    · exact exec_hdb3dEnd_active hm hbuf (by cases x <;> cases y <;> cases z <;> rfl)
  · exact exec_idle (by simp [Instr.operation]) hm
  · exact exec_end_error rfl hm

end Sys2Proof.Machine
end

section
/-! # `hdb3_decode` is no inverse of `hdb3_encode` (43_hdb3_decoder.md R94) -/

namespace Sys2Proof

/-- Every decision consumes at least one sample and emits one bit (R91, R92). -/
theorem hdb3Decode_length_le (s : List Sample) : (hdb3Decode s).length ≤ s.length := by
  induction s using hdb3Decode.induct with
  | case1 x rest ih => rw [hdb3Decode_window]; simp only [List.length_cons]; omega
  | case2 rest hnot ih => simpa [hdb3Decode, hnot] using ih
  | case3 rest ih | case4 rest ih => simpa [hdb3Decode] using ih
  | case5 => simp [hdb3Decode]

/-- An EVEN group is no window: its two zeros are followed by a mark (R94). -/
theorem hdb3Decode_even_group (s : List Sample) :
    hdb3Decode (Pattern.even.samples ++ s) = [true, false, false, true] ++ hdb3Decode s := by
  simp [Pattern.samples, hdb3Decode]

/-- Settles O53: a window for an ODD group and for three zeros and a mark, `hdb3Decode_even_group`,
`hdb3Decode_length_le`, and the spec's examples by evaluation. -/
theorem hdb3DecodeIsNoInverse : Obligations.Hdb3DecodeIsNoInverse :=
  ⟨hdb3Decode_window .plus, by decide, hdb3Decode_even_group, by decide,
    fun mark => hdb3Decode_window mark.sample, by decide, by decide, hdb3Decode_length_le,
    [.zero, .zero, .zero, .zero], by decide⟩

end Sys2Proof
end

section
/-! # A pass of DME (44_dm_encoder.md R104) -/

namespace Sys2Proof

theorem dmEncodeFrom_length (st : Polarity) (x : List Bit) :
    (dmEncodeFrom st x).length = 2 * x.length := by
  induction x generalizing st with
  | nil => rfl
  | cons b x ih => cases b <;> simp [dmEncodeFrom, ih] <;> omega

/-- Positions 2i and 2i+1 are the pair of bit `i`, in the state the bits before it leave (R99). -/
theorem dmEncodeFrom_pair (st : Polarity) {x : List Bit} {i : Nat} {b : Bit} (h : x[i]? = some b) :
    ((dmEncodeFrom st x).drop (2 * i)).take 2 =
      dmEncodeFrom (st.afterMarks ((x.take i).count true)) [b] := by
  obtain ⟨hi, rfl⟩ := List.getElem?_eq_some_iff.mp h
  have hbefore : (dmEncodeFrom st (x.take i)).length = 2 * i := by
    rw [dmEncodeFrom_length, List.length_take_of_le hi.le]
  have hcut : x.take i ++ ([x[i]] ++ x.drop (i + 1)) = x := by
    rw [List.singleton_append, List.getElem_cons_drop, List.take_append_drop]
  conv_lhs => rw [← hcut, dmEncodeFrom_append, dmEncodeFrom_append]
  rw [List.drop_left' hbefore]
  exact List.take_left' (dmEncodeFrom_length _ [x[i]])

end Sys2Proof

namespace Sys2Proof.Machine

/-- One DATA emits what `diff_manchester_encode` makes of its bit in the state ST (R99, R102). -/
theorem dme_data_out (b : Bit) (u : Dme) :
    (u.data b).2.out = (dmEncodeFrom u.st [b]).map Sample.code := by
  cases b <;> rfl

/-- The DATA of bit `i` emits positions 2i and 2i+1 (R104). -/
theorem dme_data_out_of_pass {x : List Bit} {i : Nat} {b : Bit} (h : x[i]? = some b) (u : Dme) :
    (((feed Dme.data (x.take i) u).1).data b).2.out =
      (((dmEncodeFrom u.st x).drop (2 * i)).take 2).map Sample.code := by
  rw [dme_data_out, dme_feed, dmEncodeFrom_pair u.st h]

/-- Settles O42: the responses of `run_passOf`, `dme_follows` for the pass as a whole, and
`dme_data_out_of_pass` for each DATA. -/
theorem dmePassIsDmEncode : Obligations.DmePassIsDmEncode := by
  intro x s
  obtain ⟨t, last, hrun, hinput, hresp, -⟩ :=
    run_passOf dme_isDataRule x s (opened := ⟨.active, .plus⟩) rfl
  obtain ⟨hout, -, hshort, hlastshort, -, hstatus⟩ := dme_follows x .active last
  refine ⟨t, _, hrun, hinput, hresp, ?_, ?_, ?_, fun i hi => ?_⟩
  · simp [partResponses_length, feed_length]
  · exact List.forall_mem_append.mpr ⟨partResponses_ok _, by simp [answerWord, hstatus]⟩
  · rw [List.flatMap_append, partResponses_symbols hshort, List.flatMap_singleton,
      symbolsOf_answerWord hlastshort, hout, referenceOutput, filterMap_bitSymbol]
  · have hb := List.getElem?_eq_getElem hi
    rw [passResponses_getElem?_succ Dme.data hb, Option.map_some, symbolsOf_answerWord (by simp),
      dme_data_out_of_pass hb]
    rfl

end Sys2Proof.Machine
end

section
/-! # The commands of DME (44_dm_encoder.md R101 to R103) -/

namespace Sys2Proof.Machine

/-- Settles O22: the rule of START with DME's START rule. -/
theorem dmeStartSetsStateToPlusOne : Obligations.DmeStartSetsStateToPlusOne :=
  ⟨decode_encode .dmeStart, exec_start rfl⟩

theorem dme_data_zero (b : Block) :
    b.data .dme 0#2 =
      some (b, .symbols [b.dme.st.sample.code, b.dme.st.neg.sample.code]) := rfl

theorem dme_data_one (b : Block) :
    b.data .dme 1#2 =
      some ({ b with dme := { b.dme with st := if b.dme.st = .plus then .minus else .plus } },
        .symbols [b.dme.st.neg.sample.code, b.dme.st.sample.code]) := by
  rw [← Polarity.neg_eq_ite]
  rfl

theorem dme_data_invalid {pay : SymbolCode} (h : pay = 2#2 ∨ pay = 3#2) (b : Block) :
    b.data .dme pay = none := by
  rcases h with rfl | rfl <;> rfl

/-- The response of a `0` in the state `p` (R102). -/
theorem answerWord_dmPair_zero (p : Polarity) :
    answerWord (.ok, .symbols [p.sample.code, p.neg.sample.code]) =
      if p = .plus then 0x0D10#16 else 0x0710#16 := by
  cases p <;> rfl

/-- The response of a `1` in the state `p` (R102). -/
theorem answerWord_dmPair_one (p : Polarity) :
    answerWord (.ok, .symbols [p.neg.sample.code, p.sample.code]) =
      if p = .plus then 0x0710#16 else 0x0D10#16 := by
  cases p <;> rfl

/-- Settles O23: the rules of DATA in the three modes, with DME's DATA rule for each payload. -/
theorem dmeDataEmitsPair : Obligations.DmeDataEmitsPair := by
  refine ⟨decode_encode (.dmeData 0#2), decode_encode (.dmeData 1#2),
    decode_encode (.dmeData 2#2), decode_encode (.dmeData 3#2), fun s =>
    ⟨fun hactive => ⟨?_, ?_, fun pay hpay => ?_⟩, fun hidle pay => ?_, fun herror pay => ?_⟩⟩
  · exact exec_data_accepted (i := .dmeData 0#2) rfl hactive (dme_data_zero s.block)
      (answerWord_dmPair_zero _)
  · exact exec_data_accepted (i := .dmeData 1#2) rfl hactive (dme_data_one s.block)
      (answerWord_dmPair_one _)
  · exact exec_data_invalid (i := .dmeData pay) rfl hactive (dme_data_invalid hpay s.block)
  · exact exec_idle (by simp [Instr.operation]) hidle
  · exact exec_data_error rfl herror

/-- Settles O24: the rules of END in the three modes; DME has nothing buffered to finish. -/
theorem dmeEndClosesPass : Obligations.DmeEndClosesPass := by
  refine ⟨decode_encode .dmeEnd, fun s => ⟨fun hactive => ?_, fun hidle => ?_, fun herror => ?_⟩⟩
  · exact exec_end_active (i := .dmeEnd) rfl hactive rfl answerWord_ok_none
  · exact exec_idle (by simp [Instr.operation]) hidle
  · exact exec_end_error rfl herror

end Sys2Proof.Machine
end

section
/-! # `diff_manchester_decode` inverts `diff_manchester_encode` (45_dm_decoder.md R108) -/

namespace Sys2Proof

theorem Polarity.neg_sample_ne (p : Polarity) : p.neg.sample ≠ p.sample := by
  cases p <;> decide

/-- The decoder that starts in the encoder's state stays in it: a `0` opens its pair with the state, a `1`
with its negation, and both then move to the same state (R99, R106). -/
theorem dmDecodeFrom_dmEncodeFrom (st : Polarity) (b : List Bit) :
    dmDecodeFrom st (dmEncodeFrom st b) = b := by
  induction b generalizing st with
  | nil => rfl
  | cons x b ih =>
    cases x with
    | false => rw [dmEncodeFrom, dmDecodeFrom, if_pos rfl, ih]
    | true => rw [dmEncodeFrom, dmDecodeFrom, if_neg st.neg_sample_ne, ih]

/-- Settles O54: both references begin in the state +1. -/
theorem dmRoundTripIsIdentity : Obligations.DmRoundTripIsIdentity :=
  dmDecodeFrom_dmEncodeFrom Config.initialDmState

end Sys2Proof
end

section
/-! # A pass of DMD (45_dm_decoder.md R112) -/

namespace Sys2Proof

/-- The reference reads the pairs of a signal only (R106). -/
theorem dmDecodeFrom_take_pairs (st : Polarity) (l : List Sample) :
    dmDecodeFrom st (l.take (l.length - l.length % 2)) = dmDecodeFrom st l := by
  rcases Nat.mod_two_eq_zero_or_one l.length with heven | hodd
  · rw [heven, Nat.sub_zero, List.take_length]
  · rw [hodd, ← List.dropLast_eq_take, dmDecodeFrom_dropLast st l hodd]

end Sys2Proof

namespace Sys2Proof.Machine

/-- The two DATA of a pair: nothing on the first, on the second the bit the reference reads off the pair; both
then go on from the same state (R106, R110). -/
theorem dmd_feed_pair (p q : Polarity) (xs : List Polarity) (m : Mode) (st : Polarity) :
    ∃ (bit : Bit) (st' : Polarity),
      dmDecodeFrom st ((p :: q :: xs).map Polarity.sample) =
        bit :: dmDecodeFrom st' (xs.map Polarity.sample) ∧
      (feed (fun p => Dmd.data p.sample) (p :: q :: xs) ⟨m, st, none⟩).2 =
        .none :: .symbols [bitCode bit] ::
          (feed (fun p => Dmd.data p.sample) xs ⟨m, st', none⟩).2 := by
  simp only [feed, dmd_data_first p.sample ⟨m, st, none⟩ rfl,
    dmd_data_second q.sample p.sample ⟨m, st, some p.sample⟩ rfl, List.map_cons, dmDecodeFrom]
  by_cases hp : p.sample = st.sample
  · exact ⟨false, st, by simp only [if_pos hp, and_self]⟩
  · exact ⟨true, st.neg, by simp only [if_neg hp, and_self]⟩

/-- The DATA of x[2k] emits nothing and the DATA of x[2k+1] emits bit `k` (R112). -/
theorem dmd_feed_getElem? (xs : List Polarity) (m : Mode) (st : Polarity) {k : Nat}
    (hk : 2 * k + 1 < xs.length) :
    (feed (fun p => Dmd.data p.sample) xs ⟨m, st, none⟩).2[2 * k]? = some .none ∧
    (feed (fun p => Dmd.data p.sample) xs ⟨m, st, none⟩).2[2 * k + 1]? =
      ((dmDecodeFrom st (xs.map Polarity.sample))[k]?).map fun bit => .symbols [bitCode bit] := by
  match xs, hk with
  | p :: q :: xs, hk =>
    obtain ⟨bit, st', hdecode, hemit⟩ := dmd_feed_pair p q xs m st
    rw [hdecode, hemit]
    cases k with
    | zero => exact ⟨rfl, rfl⟩
    | succ k =>
      have hrest : 2 * k + 1 < xs.length := by simp only [List.length_cons] at hk; omega
      exact dmd_feed_getElem? xs m st' hrest

/-- Settles O43: the responses of `run_passOf`, `dmd_follows` for the pass as a whole and its END, and
`dmd_feed_getElem?` for each pair of DATA. -/
theorem dmdPassIsDmDecode : Obligations.DmdPassIsDmDecode := by
  intro x s
  obtain ⟨t, last, hrun, hinput, hresp, hlast⟩ :=
    run_passOf dmd_isDataRule x s (opened := ⟨.active, .plus, none⟩) rfl
  obtain ⟨hout, -, hshort, hlastshort, -, hstatus⟩ := dmd_follows x .active hlast
  have hquiet : (last.finish .dmd).2.2.out = [] := rfl
  have hsymbols (b : Bit) : symbolsOf (answerWord (.ok, .symbols [bitCode b])) = [bitCode b] :=
    symbolsOf_answerWord (by simp [Emission.symbols])
  refine ⟨t, _, _, ?_, hinput, hresp.trans (List.append_assoc ..).symm, ?_, partResponses_ok _,
    ?_, ?_, ?_, fun k hk => ?_⟩
  · simpa only [List.map_map, Function.comp_def] using hrun
  · rw [partResponses_length, feed_length]
  · rcases Nat.mod_two_eq_zero_or_one x.length with heven | hodd
    · simp [answerWord, hstatus, heven]
    · simp [answerWord, hstatus, hodd]
  · rw [symbolsOf_answerWord hlastshort, hquiet]
  · have htake := dmDecodeFrom_take_pairs .plus (x.map Polarity.sample)
    rw [List.length_map] at htake
    rw [partResponses_symbols hshort, dmd_feed_out, ← htake, dmDecode]
  · obtain ⟨hfirst, hsecond⟩ := dmd_feed_getElem? x .active .plus hk
    rw [partResponses_getElem?_succ, partResponses_getElem?_succ, hfirst, hsecond]
    refine ⟨congrArg some (symbolsOf_answerWord (Nat.zero_le 3)), ?_⟩
    simp [hsymbols, Function.comp_def, dmDecode]

end Sys2Proof.Machine
end

section
/-! # The commands of DMD (45_dm_decoder.md R109 to R111) -/

namespace Sys2Proof.Machine

/-- Settles O25: the rule of START with DMD's START rule. -/
theorem dmdStartDiscardsHalfPair : Obligations.DmdStartDiscardsHalfPair :=
  ⟨decode_encode .dmdStart, exec_start rfl⟩

/-! ## DATA -/

/-- A valid DATA in a pass (40_dispatch.md R64). -/
theorem exec_dmdData {s : State} (hm : s.block.dmd.mode = .active) {p : Polarity} {u : Dmd}
    {e : Emission} (hd : s.block.dmd.data p.sample = (u, e)) {r : ResponseWord}
    (hr : answerWord (.ok, e) = r) :
    exec (.dmdData p.sample.code) s = .next
      { s with block := { s.block with dmd := u }, responses := s.responses ++ [r] } := by
  have hdata : s.block.data .dmd p.sample.code = some ({ s.block with dmd := u }, e) := by
    rw [Block.data, dmSymbol_code, Option.map_some, hd]
  exact exec_data_accepted (i := .dmdData p.sample.code) rfl hm hdata hr

/-- A held sample equal to ST decides a `0` and keeps ST, whatever the second sample is (R107, R110). -/
theorem dmd_data_same {x y : Sample} {u : Dmd} (hu : u.half = some y)
    (hy : y = if u.st = .plus then .plus else .minus) :
    u.data x = ({ u with half := none }, .symbols [bitCode false]) := by
  rw [dmd_data_second x y u hu, if_pos (hy.trans u.st.sample_eq_ite.symm)]

/-- A held sample different from ST decides a `1` and negates ST, whatever the second sample is
(R107, R110). -/
theorem dmd_data_different {x y : Sample} {u : Dmd} (hu : u.half = some y)
    (hy : y ≠ if u.st = .plus then .plus else .minus) :
    u.data x =
      ({ u with half := none, st := if u.st = .plus then .minus else .plus },
        .symbols [bitCode true]) := by
  rw [← Polarity.sample_eq_ite] at hy
  rw [dmd_data_second x y u hu, if_neg hy, Polarity.neg_eq_ite]

theorem dmd_data_invalid {pay : SymbolCode} (h : pay = 0#2 ∨ pay = 2#2) (b : Block) :
    b.data .dmd pay = none := by
  rcases h with rfl | rfl <;> rfl

/-- Settles O26: the DATA rule of the first sample of a pair and of the second, and the rules of DATA in the
other cases. -/
theorem dmdDataComparesHeldSample : Obligations.DmdDataComparesHeldSample := by
  refine ⟨decode_encode (.dmdData 0#2), decode_encode (.dmdData 1#2),
    decode_encode (.dmdData 2#2), decode_encode (.dmdData 3#2), fun s =>
    ⟨fun hm => ⟨fun hnone => ⟨?_, ?_⟩, fun y pay hy hpay => ?_, fun pay hpay => ?_⟩,
      fun hm pay => ?_, fun hm pay => ?_⟩⟩
  · exact exec_dmdData (p := .plus) hm (dmd_data_first _ _ hnone) answerWord_ok_none
  · exact exec_dmdData (p := .minus) hm (dmd_data_first _ _ hnone) answerWord_ok_none
  · obtain ⟨p, rfl⟩ : ∃ p : Polarity, pay = p.sample.code :=
      hpay.elim (fun h => ⟨.plus, h⟩) fun h => ⟨.minus, h⟩
    refine ⟨fun hsame => ?_, fun hdifferent => ?_⟩
    · exact exec_dmdData hm (dmd_data_same hy hsame) (by decide)
    · exact exec_dmdData hm (dmd_data_different hy hdifferent) (by decide)
  · exact exec_data_invalid (i := .dmdData pay) rfl hm (dmd_data_invalid hpay s.block)
  · exact exec_idle (by simp [Instr.operation]) hm
  · exact exec_data_error rfl hm

/-! ## END -/

/-- END of a pass closes it with what DMD's END rule makes of the half pair (R111). -/
theorem exec_dmdEnd_active {s : State} (hm : s.block.dmd.mode = .active) {u : Dmd} {status : Status}
    (hf : ({ s.block.dmd with mode := .idle } : Dmd).finish = (u, status)) {r : ResponseWord}
    (hr : answerWord (status, .none) = r) :
    exec .dmdEnd s = .next
      { s with block := { s.block with dmd := u }, responses := s.responses ++ [r] } := by
  have hfinish : (s.block.setMode .dmd .idle).finish .dmd =
      ({ s.block with dmd := u }, status, .none) := by
    simp only [Block.finish, Block.setMode, hf]
  exact exec_end_active (i := .dmdEnd) rfl hm hfinish hr

/-- Settles O27: the END rule without and with a half pair, and the rules of END in the other modes. -/
theorem dmdEndFlagsOddLength : Obligations.DmdEndFlagsOddLength := by
  refine ⟨decode_encode .dmdEnd, fun s =>
    ⟨fun hm => ⟨fun hnone => ?_, fun y hy => ?_⟩, fun hm => ?_, fun hm => ?_⟩⟩
  · exact exec_dmdEnd_active hm (dmd_finish_none _ hnone) answerWord_ok_none
  · exact exec_dmdEnd_active hm (dmd_finish_some _ y hy) (by decide)
  · exact exec_idle (by simp [Instr.operation]) hm
  · exact exec_end_error rfl hm

end Sys2Proof.Machine
end

section
/-! # The exceptions (60_exceptions.md R114 to R119) -/

namespace Sys2Proof.Machine

/-! ## The status of a command (R119) -/

/-- END of an open pass is MALFORMED_SIGNAL for DMD with a half pair and OK otherwise (40_dispatch.md R65,
45_dm_decoder.md R111). -/
theorem finish_status (u : UnitId) (b : Block) :
    (b.finish u).2.1 = if u = .dmd ∧ b.dmd.half ≠ none then .malformedSignal else .ok := by
  cases u with
  | amie | hdb3e | hdb3d | dme => rfl
  | dmd =>
    simp only [Block.finish]
    cases hhalf : b.dmd.half with
    | none => rw [dmd_finish_none _ hhalf]; rfl
    | some y => rw [dmd_finish_some _ y hhalf]; rfl

@[simp] theorem setMode_dmd_half (u : UnitId) (m : Mode) (b : Block) :
    (b.setMode u m).dmd.half = b.dmd.half := by
  cases u <;> rfl

/-- The DATA rule has no answer exactly for the payloads outside the alphabet (30_encoding.md R56). -/
theorem data_eq_none_iff {u : UnitId} {pay : SymbolCode} {b : Block} :
    b.data u pay = none ↔ validPayload u pay = false := by
  rw [← data_isSome u pay b, ← Bool.not_eq_true, Option.not_isSome_iff_eq_none]

/-- The status of a command is the first that applies of the conditions of R119 a decoded word can meet. -/
theorem command_status (i : Instr) (b : Block) :
    (b.command i).2.1 =
      if i.operation = .start then .ok
      else if b.mode i.unit = .idle then .sequenceError
      else if b.mode i.unit = .error then .aborted
      else if i.operation = .data ∧ validPayload i.unit i.payload = false then .invalidSymbol
      else if i = .dmdEnd ∧ b.dmd.half ≠ none then .malformedSignal
      else .ok := by
  have hran := command_ran i b
  generalize b.command i = a at hran ⊢
  cases hran with
  | started hop => rw [if_pos hop]
  | rejected hop hm => rw [if_neg hop, if_pos hm]
  | abortedData hop hm | abortedEnd hop hm => simp [hop, hm]
  | invalid hop hm hd => simp [hop, hm, data_eq_none_iff.mp hd]
  | accepted b' e hop hm hd =>
    have hpay : validPayload i.unit i.payload = true := by
      rw [← data_isSome i.unit i.payload b, hd]; rfl
    have hne : i ≠ .dmdEnd := by rintro rfl; cases hop
    simp [hop, hm, hpay, hne]
  | closed hop hm =>
    have hdmd : i = .dmdEnd ↔ i.unit = .dmd := ⟨fun h => h ▸ rfl, fun h => eq_endOf h hop⟩
    simp [finish_status, hop, hm, hdmd]

/-- Settles O32: an `Illegal` word by `step_of_isIllegal`, which a word with RSV = 1 is (R55), and a decoded
one by `command_status`. -/
theorem statusFollowsPriorityOrder : Obligations.StatusFollowsPriorityOrder := by
  intro s w rest hin
  cases hw : decode w with
  | error e =>
    have hill : isIllegal w = true := by simp [isIllegal, hw]
    exact ⟨_, _, step_of_isIllegal hin hill, rfl, rfl, by simp, fun _ => rfl⟩
  | ok i =>
    have hstep := (stepRunsDecodedCommand s w rest i hin hw (instr_wf i)).trans (exec_eq i _)
    refine ⟨_, _, hstep, reply_responses .., ?_, ?_, fun hrsv => ?_⟩
    · rw [answerWord, statusOf_responseWord, command_status]
      simp only [apply_ite Status.code, apply_ite BitVec.toNat]
      rfl
    · rintro j ⟨⟩ hop hm
      exact congrArg Prod.fst (command_idle (by simp [hop]) hm)
    · have hill : isIllegal w = true := (isIllegal_iff w).mpr (.inr (.inr (.inl hrsv)))
      rw [(isIllegal_eq_false_iff w).mpr ⟨i, hw⟩] at hill
      cases hill

/-! ## `Illegal` words and IDLE units (R114, R115) -/

/-- Settles O8: a word that does not decode is `Illegal`. -/
theorem illegalWordChangesNoRegister : Obligations.IllegalWordChangesNoRegister := by
  intro s w rest e hin hw
  exact step_of_isIllegal hin (by simp [isIllegal, hw])

/-- Settles O29: neither DATA nor END is a START, so the mode gate rejects both. -/
theorem idleUnitRejectsDataAndEnd : Obligations.IdleUnitRejectsDataAndEnd := by
  intro u pay s hm
  exact ⟨exec_idle (by simp) (by rwa [dataOf_unit]), exec_idle (by simp) (by rwa [endOf_unit])⟩

/-! ## ERROR mode (R116, R117) -/

theorem exec_dataOf_error {u : UnitId} {s : State} (hm : s.block.mode u = .error)
    (pay : SymbolCode) :
    exec (dataOf u pay) s = .next { s with responses := s.responses ++ [0x0005#16] } :=
  exec_data_error (dataOf_operation u pay) (by rwa [dataOf_unit])

theorem exec_endOf_error {u : UnitId} {s : State} (hm : s.block.mode u = .error) :
    exec (endOf u) s = .next
      { s with block := s.block.setMode u .idle, responses := s.responses ++ [0x0005#16] } := by
  simpa only [endOf_unit] using exec_end_error (endOf_operation u) (s := s) (by rwa [endOf_unit])

theorem exec_startOf (u : UnitId) (s : State) :
    exec (startOf u) s = .next
      { s with
        block := (s.block.fresh u).setMode u .active,
        responses := s.responses ++ [0x0000#16] } := by
  simpa only [startOf_unit] using exec_start (startOf_operation u) s

theorem exec_dataOf_invalid {u : UnitId} {pay : SymbolCode} {s : State}
    (hm : s.block.mode u = .active) (hpay : validPayload u pay = false) :
    exec (dataOf u pay) s = .next
      { s with
        block := s.block.setMode u .error, responses := s.responses ++ [0x0001#16] } := by
  simpa only [dataOf_unit] using exec_data_invalid (dataOf_operation u pay) (s := s)
    (by rwa [dataOf_unit]) (data_eq_none_iff.mpr (by rwa [dataOf_unit, dataOf_payload]))

/-- Undoing the write of another MODE gives the block back. -/
theorem setMode_setMode_of_mode {u : UnitId} {m : Mode} {b : Block} (hm : b.mode u = m) (n : Mode) :
    (b.setMode u n).setMode u m = b := by
  rw [setMode_setMode, ← hm, setMode_mode]

/-- The payloads outside each unit's alphabet (30_encoding.md R56). -/
theorem validPayload_eq_false {u : UnitId} {pay : SymbolCode}
    (h : ((u = .amie ∨ u = .hdb3e ∨ u = .dme) ∧ (pay = 2#2 ∨ pay = 3#2)) ∨
      (u = .hdb3d ∧ pay = 2#2) ∨ (u = .dmd ∧ (pay = 0#2 ∨ pay = 2#2))) :
    validPayload u pay = false := by
  rcases h with ⟨rfl | rfl | rfl, rfl | rfl⟩ | ⟨rfl, rfl⟩ | ⟨rfl, rfl | rfl⟩ <;> rfl

/-- Settles O30: the DATA enters ERROR mode, in which the rules of DATA and END abort. -/
theorem invalidSymbolEntersErrorMode : Obligations.InvalidSymbolEntersErrorMode := by
  intro u pay s hm hpay
  have herror : (s.block.setMode u .error).mode u = .error := mode_setMode ..
  exact ⟨_, exec_dataOf_invalid hm (validPayload_eq_false hpay), rfl, rfl, herror,
    setMode_setMode_of_mode hm .error, exec_dataOf_error herror, _, exec_endOf_error herror, rfl⟩

/-- Settles O31: the rules of DATA and END in ERROR mode, and START, which no mode stops. -/
theorem errorModeAbortsUntilEndOrStart : Obligations.ErrorModeAbortsUntilEndOrStart := by
  intro u pay s hm
  refine ⟨exec_dataOf_error hm pay, ?_, ?_⟩
  · exact ⟨_, _, exec_endOf_error hm, rfl, rfl, mode_setMode .., setMode_setMode_of_mode hm .idle,
      exec_startOf u _, mode_setMode ..⟩
  · exact ⟨_, exec_startOf u s, rfl, mode_setMode ..⟩

end Sys2Proof.Machine
end

section
/-! # Reset and hazards (70_reset_and_hazards.md R127, R129) -/

namespace Sys2Proof.Machine

/-! ## A host that keeps its duties (R129) -/

/-- What an orderly list of commands says of its first: it addresses another unit, or it stands inside a pass
unless it opens one, and carries a symbol of the alphabet if it is a DATA. The pass is open after it unless it
is an END. -/
theorem orderly_cons_iff {u : UnitId} {begun : Bool} {i : Instr} {is : List Instr} :
    orderly u begun (i :: is) = true ↔
      (i.unit ≠ u ∧ orderly u begun is = true) ∨
      (i.unit = u ∧ (i.operation ≠ .start → begun = true) ∧
        (i.operation = .data → validPayload u i.payload = true) ∧
        orderly u (i.operation ≠ .close) is = true) := by
  by_cases hu : i.unit = u
  · cases hop : i.operation <;> simp [orderly, hu, hop, and_assoc]
  · simp [orderly, hu]

section
variable {i : Instr} {b : Block} (hpass : i.operation ≠ .start → b.mode i.unit = .active)
  (hpay : i.operation = .data → validPayload i.unit i.payload = true)
include hpass hpay

/-- A command in an open pass, or one that opens it, meets none of the error conditions of
60_exceptions.md R119 but that of a half pair at DMD.END. -/
theorem command_status_in_pass :
    (b.command i).2.1 = .ok ∨ (i = .dmdEnd ∧ (b.command i).2.1 = .malformedSignal) := by
  rw [command_status]
  by_cases hstart : i.operation = .start
  · exact .inl (if_pos hstart)
  · have hvalid : ¬ (i.operation = .data ∧ validPayload i.unit i.payload = false) :=
      fun ⟨hdata, hfalse⟩ => by simp [hpay hdata] at hfalse
    simp only [if_neg hstart, hpass hstart, if_neg hvalid, reduceCtorEq, if_false]
    by_cases hhalf : i = .dmdEnd ∧ b.dmd.half ≠ none
    · exact .inr ⟨hhalf.1, if_pos hhalf⟩
    · exact .inl (if_neg hhalf)

/-- Such a command leaves the pass open unless it is an END (10_state.md R21). -/
theorem command_mode_in_pass (hclose : i.operation ≠ .close) :
    (b.command i).1.mode i.unit = .active := by
  by_cases hkept : (b.command i).1.mode i.unit = b.mode i.unit
  · by_cases hstart : i.operation = .start
    · simp [command_start hstart]
    · exact hkept.trans (hpass hstart)
  · rcases command_mode i b hkept with ⟨-, hactive⟩ | ⟨hop, -⟩ | ⟨hop, -, hinvalid, -⟩
    · exact hactive
    · exact absurd hop hclose
    · simp [hpay hop] at hinvalid

end

/-- Commands in order are answered without an error by their unit, whatever stands between them for other
units: the unit is ACTIVE wherever `begun` says so. -/
theorem orderly_commands_status {u : UnitId} (is : List Instr) {begun : Bool} {b : Block}
    (horderly : orderly u begun is = true) (hbegun : begun = true → b.mode u = .active) :
    List.Forall₂ (fun i a => i.unit = u → a.1 = .ok ∨ (i = .dmdEnd ∧ a.1 = .malformedSignal))
      is (b.commands is).2 := by
  induction is generalizing begun b with
  | nil => exact .nil
  | cons i is ih =>
    rcases orderly_cons_iff.mp horderly with ⟨hu, hrest⟩ | ⟨rfl, hopen, hpay, hrest⟩
    · have hframe := agreeOn_mode (command_frame i b u (Ne.symm hu))
      exact .cons (fun h => absurd h hu) (ih hrest fun h => hframe.trans (hbegun h))
    · have hpass : i.operation ≠ .start → b.mode i.unit = .active := fun h => hbegun (hopen h)
      exact .cons (fun _ => command_status_in_pass hpass hpay)
        (ih hrest fun h => command_mode_in_pass hpass hpay (of_decide_eq_true h))

/-- Settles O45: the run is the block's answers in turn, and their statuses are
`orderly_commands_status`. -/
theorem orderlyHostSeesNoError : Obligations.OrderlyHostSeesNoError := by
  intro u is s horderly
  have hstatus := orderly_commands_status is (b := s.block) horderly (by simp)
  refine ⟨_, _, run_present is s, rfl, ?_, fun k i r hi hr hu => ?_⟩
  · rw [List.length_map, hstatus.length_eq]
  · rw [List.getElem?_map] at hr
    obtain ⟨a, ha, rfl⟩ := Option.map_eq_some_iff.mp hr
    have hmem : (i, a) ∈ is.zip (s.block.commands is).2 :=
      List.mem_of_getElem? (List.getElem?_zip_eq_some.mpr ⟨hi, ha⟩)
    rw [answerWord, statusOf_responseWord]
    rcases (List.forall₂_iff_zip.mp hstatus).2 hmem hu with hok | ⟨hend, hmalformed⟩
    · exact .inl (congrArg Status.code hok)
    · exact .inr ⟨hend, congrArg Status.code hmalformed⟩

/-! ## The reset input (R127) -/

theorem step_of_reset {s : State} {rest : List HostInput} (hin : s.input = .reset :: rest) :
    step s = .next (hardwareReset { s with input := rest }) := by
  unfold step
  rw [takeInput_cons hin]

/-- Presenting a word leaves the MODE of every unit that the word does not address. -/
theorem step_keeps_other_mode {s : State} {w : CommandWord} {rest : List HostInput}
    (hin : s.input = .command w :: rest) {v : UnitId} (hv : ∀ i, decode w = .ok i → v ≠ i.unit) :
    ∃ t, step s = .next t ∧ t.block.mode v = s.block.mode v := by
  cases hw : decode w with
  | error e => exact ⟨_, illegalWordChangesNoRegister s w rest e hin hw, rfl⟩
  | ok i =>
    have hstep := (stepRunsDecodedCommand s w rest i hin hw (instr_wf i)).trans (exec_eq i _)
    exact ⟨_, hstep, agreeOn_mode (command_frame i s.block v (hv i hw))⟩

theorem exists_unit_not_addressed (w : CommandWord) : ∃ v, ∀ i, decode w = .ok i → v ≠ i.unit := by
  cases hw : decode w with
  | error e => exact ⟨.amie, by simp⟩
  | ok i =>
    obtain ⟨v, hv⟩ : ∃ v, v ≠ i.unit := by
      cases i.unit with
      | amie => exact ⟨.dmd, by decide⟩
      | hdb3e | hdb3d | dme | dmd => exact ⟨.amie, by decide⟩
    exact ⟨v, by rintro j ⟨⟩; exact hv⟩

@[simp] theorem block_reset_mode (u : UnitId) : Block.reset.mode u = .idle := by cases u <;> rfl

/-- Settles O9: a word is no reset, since it leaves open a pass of a unit it does not address. -/
theorem resetInputRestoresEveryRegister : Obligations.ResetInputRestoresEveryRegister := by
  refine ⟨fun s rest hin => step_of_reset hin, fun w => ?_, rfl⟩
  obtain ⟨v, hv⟩ := exists_unit_not_addressed w
  obtain ⟨t, hstep, hmode⟩ := step_keeps_other_mode
    (s := { block := Block.reset.setMode v .active, input := [.command w], responses := [] }) rfl hv
  refine ⟨_, t, rfl, hstep, fun hidle => ?_⟩
  have hactive : t.block.mode v = .active := hmode.trans (mode_setMode ..)
  have hreset : t.block.mode v = .idle := (congrArg (Block.mode v) hidle).trans (block_reset_mode v)
  simp [hactive] at hreset

end Sys2Proof.Machine
end
